-- ==== Sys2Proof/Word.lean ====
section
/-!
DEFINITION. The word type of the machine and its plainest arithmetic.

Everything the core handles is one 16-bit unsigned word: memory cells, registers, instruction words
(00_scope.md R6, R9; 20_memory.md R65).
There is no byte and no signed reading of a word anywhere in this instruction set.
-/

namespace Sys2Proof

/-- The 16-bit unit of memory, registers and instruction encoding (00_scope.md R6, R15). -/
abbrev Word := BitVec 16

/-- `n mod 2^16` as a word: the reduction the spec's pseudocode writes before every store (00_scope.md R9). -/
abbrev Word.wrap (n : Nat) : Word := BitVec.ofNat 16 n

end Sys2Proof
end

