-- ==== Sys2Proof/Machine/Flags.lean ====
section
/-!
DEFINITION. The values the arithmetic and shift opcodes leave in the overflow register (10_state.md R37).

The core has no status flags (10_state.md R38); `ov` is its only carry-like state.
Each value is computed over unbounded naturals and reduced at the end (00_scope.md R9).
-/

namespace Sys2Proof.Machine

/-- ADD: 1 if the unwrapped sum exceeds 0xFFFF, else 0 (42_set_arith.md R181). -/
def addOverflow (va vb : Word) : Word := if va.toNat + vb.toNat > 0xFFFF then 0x0001 else 0x0000

/-- SUB: all ones if the subtraction borrows, else 0 (42_set_arith.md R182; 90_conflicts.md C3). -/
def subOverflow (va vb : Word) : Word := if va.toNat < vb.toNat then 0xFFFF else 0x0000

/-- MUL: the high 16 bits of the 32-bit product (42_set_arith.md R183). -/
def mulOverflow (va vb : Word) : Word := Word.wrap ((va.toNat * vb.toNat) >>> 16)

/-- DIV: the first 16 fraction bits of the quotient, or 0 when the divisor is 0 (42_set_arith.md R184). -/
def divOverflow (va vb : Word) : Word := if vb = 0 then 0x0000 else Word.wrap ((va.toNat <<< 16) / vb.toNat)

/-- SHL: the bits shifted out above bit 15, for any shift amount (42_set_arith.md R186;
UNVERIFIED, unsafe: notes/assumptions/8.md). -/
def shlOverflow (va vb : Word) : Word := Word.wrap ((va.toNat <<< vb.toNat) >>> 16)

/-- SHR: the bits shifted out below bit 0, placed at the top, for any shift amount (42_set_arith.md R187;
UNVERIFIED, unsafe: notes/assumptions/8.md). -/
def shrOverflow (va vb : Word) : Word := Word.wrap ((va.toNat <<< 16) >>> vb.toNat)

end Sys2Proof.Machine
end

