-- ==== Sys2Proof/Syntax.lean ====
section
/-!
DEFINITION. The instructions as syntax: one constructor of `Instr` for each row of spec/opcode_table.json.

An operand carries the extra word its code consumes from the Word Stream (30_encoding.md R93), so that an `Instr` is a
whole instruction of one to three words (R94).
That the extra words are read together with the instruction word, before anything is written, is 20_memory.md R71 and
R74 (DEDUCED, safe: notes/assumptions/11.md).
-/

namespace Sys2Proof

/-- The eight general registers, in index order (10_state.md R31). -/
inductive Reg where
  | a | b | c | x | y | z | i | j
  deriving DecidableEq, Repr

/-- An operand: one constructor for each row of the operand-code table (30_encoding.md R93). -/
inductive Operand where
  /-- Codes 0x00–0x07, register direct (40_operands.md R121). -/
  | reg (r : Reg)
  /-- Codes 0x08–0x0F, `[register]` (R122). -/
  | ind (r : Reg)
  /-- Codes 0x10–0x17, `[next word + register]`; `n` is the extra word (R123). -/
  | indOff (n : Word) (r : Reg)
  /-- Code 0x18 (R124). -/
  | pop
  /-- Code 0x19 (R125). -/
  | peek
  /-- Code 0x1A (R126). -/
  | push
  /-- Code 0x1B, the stack pointer register (R127). -/
  | sp
  /-- Code 0x1C, the program counter register (R128). -/
  | pc
  /-- Code 0x1D, the overflow register, written `O` (R129). -/
  | o
  /-- Code 0x1E, `[next word]`; `n` is the extra word (R130). -/
  | abs (n : Word)
  /-- Code 0x1F, the literal `n`, which is the extra word (R131). -/
  | next (n : Word)
  /-- Codes 0x20–0x3F, the inline literal `code − 0x20` (R132). -/
  | lit (v : BitVec 5)
  deriving DecidableEq, Repr

/-- The instructions: the fifteen basic opcodes, with operands A and B (30_encoding.md R97), and the two rows of the
extended form, with the sole operand B (R98). -/
inductive Instr where
  | set (a b : Operand)
  | add (a b : Operand)
  | sub (a b : Operand)
  | mul (a b : Operand)
  | div (a b : Operand)
  | mod (a b : Operand)
  | shl (a b : Operand)
  | shr (a b : Operand)
  | and (a b : Operand)
  | bor (a b : Operand)
  | xor (a b : Operand)
  | ife (a b : Operand)
  | ifn (a b : Operand)
  | ifg (a b : Operand)
  | ifb (a b : Operand)
  | jsr (b : Operand)
  /-- Opcode 0x0 with a selector other than 0x01 (30_encoding.md R98, R99). -/
  | unknownExt (sel : BitVec 6) (b : Operand)
  deriving DecidableEq, Repr

/-- The operands of an instruction in the order they are decoded: A before B (41_execution.md R155); the selector of the
extended form is not an operand (30_encoding.md R94). -/
def Instr.operands : Instr → List Operand
  | .set a b => [a, b]
  | .add a b => [a, b]
  | .sub a b => [a, b]
  | .mul a b => [a, b]
  | .div a b => [a, b]
  | .mod a b => [a, b]
  | .shl a b => [a, b]
  | .shr a b => [a, b]
  | .and a b => [a, b]
  | .bor a b => [a, b]
  | .xor a b => [a, b]
  | .ife a b => [a, b]
  | .ifn a b => [a, b]
  | .ifg a b => [a, b]
  | .ifb a b => [a, b]
  | .jsr b => [b]
  | .unknownExt _ b => [b]

end Sys2Proof
end

