-- ==== Sys2Proof/WellFormed.lean ====
section
/-!
DEFINITION. Which terms of `Instr` are instructions of the machine.

The operand types already bound every register number, literal and word.
One check is left: an unknown extended instruction does not carry JSR's selector (30_encoding.md R98).
-/

namespace Sys2Proof

/-- The selector of JSR under opcode 0x0 (30_encoding.md R98). -/
def jsrSelector : BitVec 6 := 0x01

/-- The check: an unknown extended selector is one of 0x00, 0x02–0x3F (30_encoding.md R98). -/
def Instr.wellFormed : Instr → Bool
  | .set _ _ => true
  | .add _ _ => true
  | .sub _ _ => true
  | .mul _ _ => true
  | .div _ _ => true
  | .mod _ _ => true
  | .shl _ _ => true
  | .shr _ _ => true
  | .and _ _ => true
  | .bor _ _ => true
  | .xor _ _ => true
  | .ife _ _ => true
  | .ifn _ _ => true
  | .ifg _ _ => true
  | .ifb _ _ => true
  | .jsr _ => true
  | .unknownExt sel _ => sel != jsrSelector

end Sys2Proof
end

