-- ==== Sys2Proof/Decode.lean ====
section
/-!
DEFINITION. The decoder and, after it, the encoder (30_encoding.md).

`decode` is total: every 16-bit word begins exactly one instruction (R99), and the two words that follow it in the Word
Stream are at hand because memory has no end (20_memory.md R67).
`decodeWords` is the same decoder on a finite list of words; it rejects by name a list that ends inside an instruction.
The opcode numbering is one table, `decodeOp`, with `Instr.opcode` as its inverse (R97; 92_eei_decisions.md D3,
UNVERIFIED, unsafe: notes/assumptions/5.md).
-/

namespace Sys2Proof

/-! ### Registers and operand codes -/

/-- The register with index `n` (10_state.md R31). -/
def Reg.ofIndex (n : BitVec 3) : Reg :=
  match n.toNat with
  | 0 => .a
  | 1 => .b
  | 2 => .c
  | 3 => .x
  | 4 => .y
  | 5 => .z
  | 6 => .i
  | _ => .j

/-- Does the operand code consume an extra word? `e(c)` of 30_encoding.md R94 as a truth value. -/
def codeTakesWord (c : BitVec 6) : Bool :=
  (0x10 ≤ c.toNat && c.toNat ≤ 0x17) || c.toNat == 0x1E || c.toNat == 0x1F

/-- `e(c)`: the number of extra words operand code `c` consumes (30_encoding.md R94). -/
def extraWords (c : BitVec 6) : Nat := if codeTakesWord c then 1 else 0

/-- The operand of code `c`, when `n` is the next word of the Word Stream (30_encoding.md R93, R96).
`n` is used only by the codes that consume a word. -/
def decodeOperand (c : BitVec 6) (n : Word) : Operand :=
  let r := Reg.ofIndex (c.extractLsb' 0 3)
  if c.toNat < 0x08 then .reg r
  else if c.toNat < 0x10 then .ind r
  else if c.toNat < 0x18 then .indOff n r
  else if c.toNat = 0x18 then .pop
  else if c.toNat = 0x19 then .peek
  else if c.toNat = 0x1A then .push
  else if c.toNat = 0x1B then .sp
  else if c.toNat = 0x1C then .pc
  else if c.toNat = 0x1D then .o
  else if c.toNat = 0x1E then .abs n
  else if c.toNat = 0x1F then .next n
  else .lit (c.extractLsb' 0 5)

/-! ### Instruction words -/

/-- The opcode field `w[3:0]` (30_encoding.md R90). -/
def opField (w : Word) : BitVec 4 := w.extractLsb' 0 4

/-- The operand-A field `w[9:4]`, which under opcode 0x0 is the extended selector (30_encoding.md R90, R91). -/
def aField (w : Word) : BitVec 6 := w.extractLsb' 4 6

/-- The operand-B field `w[15:10]` (30_encoding.md R90, R91). -/
def bField (w : Word) : BitVec 6 := w.extractLsb' 10 6

/-- The basic opcode map, opcode 0x1 to 0xF (30_encoding.md R97); none for the extended form 0x0. -/
def decodeOp (op : BitVec 4) : Option (Operand → Operand → Instr) :=
  match op.toNat with
  | 0x1 => some .set
  | 0x2 => some .add
  | 0x3 => some .sub
  | 0x4 => some .mul
  | 0x5 => some .div
  | 0x6 => some .mod
  | 0x7 => some .shl
  | 0x8 => some .shr
  | 0x9 => some .and
  | 0xA => some .bor
  | 0xB => some .xor
  | 0xC => some .ife
  | 0xD => some .ifn
  | 0xE => some .ifg
  | 0xF => some .ifb
  | _ => none

/-- The extended form: selector 0x01 is JSR, every other selector is unknown (30_encoding.md R98). -/
def decodeExt (sel : BitVec 6) (b : Operand) : Instr :=
  if sel = jsrSelector then .jsr b else .unknownExt sel b

/-- The instruction that begins with word `w`, when `n₁` and `n₂` are the two words that follow it.
Operand A takes its extra word first, operand B the next one (30_encoding.md R94); under opcode 0x0 the A field is a
selector and takes none (R91, R94). -/
def decode (w n₁ n₂ : Word) : Instr :=
  match decodeOp (opField w) with
  | some mk =>
    mk (decodeOperand (aField w) n₁) (decodeOperand (bField w) (if codeTakesWord (aField w) then n₂ else n₁))
  | none => decodeExt (aField w) (decodeOperand (bField w) n₁)

/-- `L(w)`: the length in words of the instruction whose first word is `w` (30_encoding.md R94, R95). -/
def wordLength (w : Word) : Nat :=
  if opField w = 0 then 1 + extraWords (bField w) else 1 + extraWords (aField w) + extraWords (bField w)

/-- Why a finite list of words holds no instruction. Memory never gives either (20_memory.md R67). -/
inductive DecodeReject where
  /-- The list is empty. -/
  | noWord
  /-- The list ends before the last extra word of its first instruction. -/
  | truncated
  deriving DecidableEq, Repr

/-- The first instruction of a list of words and the words after it, or the reason there is none. -/
def decodeWords : List Word → Except DecodeReject (Instr × List Word)
  | [] => .error .noWord
  | w :: rest =>
    if rest.length + 1 < wordLength w then .error .truncated
    else .ok (decode w (rest.getD 0 0) (rest.getD 1 0), rest.drop (wordLength w - 1))

/-! ### The encoder -/

/-- The index of a register (10_state.md R31). -/
def Reg.index : Reg → BitVec 3
  | .a => 0
  | .b => 1
  | .c => 2
  | .x => 3
  | .y => 4
  | .z => 5
  | .i => 6
  | .j => 7

/-- The 6-bit code of an operand (30_encoding.md R93). -/
def Operand.code : Operand → BitVec 6
  | .reg r => 0b000#3 ++ r.index
  | .ind r => 0b001#3 ++ r.index
  | .indOff _ r => 0b010#3 ++ r.index
  | .pop => 0x18
  | .peek => 0x19
  | .push => 0x1A
  | .sp => 0x1B
  | .pc => 0x1C
  | .o => 0x1D
  | .abs _ => 0x1E
  | .next _ => 0x1F
  | .lit v => 0b1#1 ++ v

/-- The extra words of an operand (30_encoding.md R93). -/
def Operand.words : Operand → List Word
  | .reg _ => []
  | .ind _ => []
  | .indOff n _ => [n]
  | .pop => []
  | .peek => []
  | .push => []
  | .sp => []
  | .pc => []
  | .o => []
  | .abs n => [n]
  | .next n => [n]
  | .lit _ => []

/-- The opcode of an instruction (30_encoding.md R97, R98). -/
def Instr.opcode : Instr → BitVec 4
  | .set _ _ => 0x1
  | .add _ _ => 0x2
  | .sub _ _ => 0x3
  | .mul _ _ => 0x4
  | .div _ _ => 0x5
  | .mod _ _ => 0x6
  | .shl _ _ => 0x7
  | .shr _ _ => 0x8
  | .and _ _ => 0x9
  | .bor _ _ => 0xA
  | .xor _ _ => 0xB
  | .ife _ _ => 0xC
  | .ifn _ _ => 0xD
  | .ifg _ _ => 0xE
  | .ifb _ _ => 0xF
  | .jsr _ => 0x0
  | .unknownExt _ _ => 0x0

/-- The three fields side by side: `(b << 10) | (a << 4) | op` (30_encoding.md R92; 00_scope.md R8). -/
def packWord (b a : BitVec 6) (op : BitVec 4) : Word := b ++ a ++ op

/-- The instruction word: fields `b`, `a`, `op` in the basic format, `b`, `sel`, 0 in the extended format
(30_encoding.md R90, R91, R92). -/
def Instr.firstWord (i : Instr) : Word :=
  match i with
  | .jsr b => packWord b.code jsrSelector i.opcode
  | .unknownExt sel b => packWord b.code sel i.opcode
  | .set a b => packWord b.code a.code i.opcode
  | .add a b => packWord b.code a.code i.opcode
  | .sub a b => packWord b.code a.code i.opcode
  | .mul a b => packWord b.code a.code i.opcode
  | .div a b => packWord b.code a.code i.opcode
  | .mod a b => packWord b.code a.code i.opcode
  | .shl a b => packWord b.code a.code i.opcode
  | .shr a b => packWord b.code a.code i.opcode
  | .and a b => packWord b.code a.code i.opcode
  | .bor a b => packWord b.code a.code i.opcode
  | .xor a b => packWord b.code a.code i.opcode
  | .ife a b => packWord b.code a.code i.opcode
  | .ifn a b => packWord b.code a.code i.opcode
  | .ifg a b => packWord b.code a.code i.opcode
  | .ifb a b => packWord b.code a.code i.opcode

/-- The words of an instruction in address order: the instruction word, then A's extra word if any, then B's
(30_encoding.md R94). -/
def encode (i : Instr) : List Word := i.firstWord :: i.operands.flatMap Operand.words

/-! ### The opcode table's numbering of bits -/

/-- Word `k` of the bit string `w` of `nbits` bits, bit 0 the least significant bit of word 0; bits from `nbits` on are 0
(DESIGN CHOICE, safe: notes/assumptions/16.md). -/
def tableWord (nbits w k : Nat) : Word := Word.wrap ((w % 2 ^ nbits) >>> (16 * k))

/-- The instruction the decoder reads from an instruction whose bits are `w`, numbered as spec/opcode_table.json numbers
them. A row of the table is at least one word and an instruction at most three (30_encoding.md R94): other sizes are refused. -/
def decodeTableWord (nbits w : Nat) : Option Instr :=
  if 16 ≤ nbits ∧ nbits ≤ 48 then
    match decodeWords [tableWord nbits w 0, tableWord nbits w 1, tableWord nbits w 2] with
    | .ok (i, _) => some i
    | .error _ => none
  else none

end Sys2Proof
end

