-- ==== Sys2Proof/Config.lean ====
section
/-!
DEFINITION. What one realisation of the core fixes: the parameters of 00_scope.md R6 and R7.

No value of this machine is left free: every behaviour the source document leaves open is fixed by a numbered rule of
the spec (93_implementation_defined.md Part 1), so this file holds no opaque constant.
All four parameters of R7 are arguments: `UNKNOWN_EXT_POLICY` of `Machine.stepUnder` and `Machine.coreUnder`,
`IMAGE_BYTE_ORDER` of `Machine.imageOfBytes`, the image of `Machine.resetImage`, and policy, image and `n` together of
`Machine.observe`.
-/

namespace Sys2Proof.Config

/-- The number of memory cells, addresses 0x0000 to 0xFFFF (00_scope.md R6; 10_state.md R41). -/
def memWords : Nat := 65536

/-- What a memory cell that nothing has written reads as: cells past the program image are zero at reset (10_state.md R46). -/
def unlistedWord : Word := 0x0000

/-- The two settings of `UNKNOWN_EXT_POLICY` (00_scope.md R7). -/
inductive UnknownExtPolicy where
  /-- Decode the operand, change nothing else, signal `diag_unknown_ext`. -/
  | nop
  /-- The step has no successor state. -/
  | fault
  deriving DecidableEq, Repr

/-- The setting of `UNKNOWN_EXT_POLICY` that `Machine.exec`, `Machine.step` and `core` run under, whose types the host fixes:
the spec's default (00_scope.md R7; 92_eei_decisions.md D9). UNVERIFIED, unsafe: notes/assumptions/3.md. -/
def unknownExtPolicy : UnknownExtPolicy := .nop

/-- The values of the loader parameter `IMAGE_BYTE_ORDER` (00_scope.md R7; 20_memory.md R66; 92_eei_decisions.md D12).
It is OPEN: no default is given here, and `Machine.imageOfBytes` takes it as an argument. -/
inductive ImageByteOrder where
  /-- The first byte of a pair holds bits 7:0 of the word. -/
  | lowFirst
  /-- The first byte of a pair holds bits 15:8 of the word. -/
  | highFirst
  deriving DecidableEq, Repr

end Sys2Proof.Config
end

