-- ==== Sys2Proof/Machine/State.lean ====
section
/-!
DEFINITION. The state of the core, how memory is held, the state after reset, and the reasons a step can stop.

The architectural state is `pc`, `sp`, `ov`, the eight general registers and memory, and nothing else (10_state.md R30,
R42).
Beside it `State` holds the diagnostic outputs of the last step (00_scope.md R17; 60_exceptions.md R271), which no
instruction reads (DESIGN CHOICE, safe: notes/assumptions/4.md).
-/

namespace Sys2Proof.Machine

/-! ### Memory -/

/-- Memory as data: the cells that do not hold `Config.unlistedWord`, each an address and the word there, by rising
address. The machine has no byte (20_memory.md R65), so a cell is a word and not a `Host.Cell` (DESIGN
CHOICE, safe: notes/assumptions/1.md). -/
abbrev Memory := List (Nat × Word)

/-- The addresses of a list of cells rise strictly. -/
def Memory.rising : Memory → Bool
  | [] => true
  | [_] => true
  | c :: d :: m => decide (c.1 < d.1) && Memory.rising (d :: m)

/-- The canonical form: addresses rise strictly and name cells of the array (10_state.md R41), and no entry holds what an
unlisted address reads as. -/
def Memory.wf (m : Memory) : Bool :=
  m.rising && m.all fun c => decide (c.1 < Config.memWords) && c.2 != Config.unlistedWord

/-! ### Registers -/

/-- The general registers A, B, C, X, Y, Z, I, J (10_state.md R31). -/
structure Regs where
  a : Word
  b : Word
  c : Word
  x : Word
  y : Word
  z : Word
  i : Word
  j : Word
  deriving DecidableEq, Repr

/-- The diagnostic outputs of the last step (60_exceptions.md R271). -/
structure Diag where
  /-- `diag_literal_write`: a write through an immediate operand was suppressed. -/
  literalWrite : Bool
  /-- `diag_unknown_ext`: an unknown extended instruction was executed. -/
  unknownExt : Bool
  deriving DecidableEq, Repr

/-- The state of the core (10_state.md R30) and the diagnostic outputs of its last step (00_scope.md R17). -/
structure State where
  /-- The program counter (10_state.md R33). -/
  pc : Word
  /-- The stack pointer (10_state.md R36). -/
  sp : Word
  /-- The overflow register, written `O` (10_state.md R37). -/
  ov : Word
  /-- The general registers (10_state.md R31). -/
  regs : Regs
  /-- The memory (10_state.md R41). -/
  mem : Memory
  /-- The diagnostic outputs of the last step (60_exceptions.md R271). -/
  diag : Diag
  deriving DecidableEq, Repr

/-- All general registers zero (10_state.md R45). -/
def Regs.zero : Regs := ⟨0, 0, 0, 0, 0, 0, 0, 0⟩

/-- Both diagnostic outputs deasserted (10_state.md R47; 41_execution.md R150). -/
def Diag.clear : Diag := ⟨false, false⟩

/-- The reset state with the empty program image: `pc = 0`, `sp = 0xFFFF`, `ov = 0`, registers zero, memory all zero
(10_state.md R43–R47; 70_reset_and_hazards.md R300, R304). Every value is the spec's. With an image: `resetImage`.
That the state without an image is that of the empty one: DEDUCED, unsafe: notes/assumptions/2.md. -/
def State.reset : State where
  pc := 0x0000
  sp := 0xFFFF
  ov := 0x0000
  regs := Regs.zero
  mem := []
  diag := Diag.clear

/-! ### Why a step can stop -/

/-- The faults. The core raises no exception (60_exceptions.md R270). -/
inductive Fault where
  /-- Raised by an unknown extended instruction under `UNKNOWN_EXT_POLICY = fault` only: the step has no successor state
  (45_extended.md R251). Safe: the machine stops. Under the policy of `Config.unknownExtPolicy` `step` never raises it;
  `stepUnder .fault` does. -/
  | stuckUnknownExt
  deriving DecidableEq, Repr

/-- The refusals. -/
inductive Refusal where
  /-- Raised by `exec` for an instruction that has no meaning yet. Safe: the machine stops. No arm raises it. -/
  | notModelled (mnemonic : String)
  deriving DecidableEq, Repr

end Sys2Proof.Machine
end

