-- ==== Sys2Proof/Machine/Ops.lean ====
section
/-!
DEFINITION. The named operations over memory and registers: the memory interface, the Word Stream, the stack pointer, the
diagnostic outputs, and fetching an instruction.

There is no operation that takes an exception or returns from one: the core raises none, saves nothing and has no
return-from-trap instruction (60_exceptions.md R270, R272, R274, R275).
-/

namespace Sys2Proof.Machine

/-! ### The memory interface (20_memory.md R63) -/

/-- The word listed for address `k`, or what an unlisted address reads as. -/
def lookupCell : Memory → Nat → Word
  | [], _ => Config.unlistedWord
  | c :: m, k => if c.1 = k then c.2 else lookupCell m k

/-- The cells of `m` but for address `k`. -/
def eraseCell (m : Memory) (k : Nat) : Memory := m.filter fun c => c.1 != k

/-- `(k, v)` put before the first cell with a higher address. -/
def insertCell : Memory → Nat → Word → Memory
  | [], k, v => [(k, v)]
  | c :: m, k, v => if k < c.1 then (k, v) :: c :: m else c :: insertCell m k v

/-- `MemRead(a, 1)` (20_memory.md R63). Every address is legal and a read has no side effect (R61, R64). -/
def readMem (m : Memory) (a : Word) : Word := lookupCell m a.toNat

/-- `MemWrite(a, 1, v)` (20_memory.md R63). Writing what an unlisted address reads as removes the entry. -/
def writeMem (m : Memory) (a v : Word) : Memory :=
  if v = Config.unlistedWord then eraseCell m a.toNat else insertCell (eraseCell m a.toNat) a.toNat v

/-! ### Registers -/

/-- `x[r]` (00_scope.md R10; 10_state.md R32). -/
def readReg (g : Regs) : Reg → Word
  | .a => g.a
  | .b => g.b
  | .c => g.c
  | .x => g.x
  | .y => g.y
  | .z => g.z
  | .i => g.i
  | .j => g.j

/-- `x[r] <- v` (00_scope.md R10; 10_state.md R32). -/
def writeReg (g : Regs) : Reg → Word → Regs
  | .a, v => { g with a := v }
  | .b, v => { g with b := v }
  | .c, v => { g with c := v }
  | .x, v => { g with x := v }
  | .y, v => { g with y := v }
  | .z, v => { g with z := v }
  | .i, v => { g with i := v }
  | .j, v => { g with j := v }

/-! ### State updates, one per kind of state -/

/-- `x[r]` of a state. -/
def State.reg (s : State) (r : Reg) : Word := readReg s.regs r

/-- `M[a]` of a state (00_scope.md R10). -/
def State.cell (s : State) (a : Word) : Word := readMem s.mem a

/-- `pc <- v`. -/
def State.setPc (s : State) (v : Word) : State := { s with pc := v }

/-- `sp <- v`. -/
def State.setSp (s : State) (v : Word) : State := { s with sp := v }

/-- `ov <- v`. -/
def State.setOv (s : State) (v : Word) : State := { s with ov := v }

/-- `x[r] <- v`. -/
def State.setReg (s : State) (r : Reg) (v : Word) : State := { s with regs := writeReg s.regs r v }

/-- `M[a] <- v`. -/
def State.setCell (s : State) (a v : Word) : State := { s with mem := writeMem s.mem a v }

/-- Both diagnostic outputs become false, as at the start of a step (41_execution.md R150; 60_exceptions.md R271). -/
def State.clearDiag (s : State) : State := { s with diag := Diag.clear }

/-- `signal diag_literal_write` (00_scope.md R13; 40_operands.md R136). -/
def State.signalLiteralWrite (s : State) : State := { s with diag := { s.diag with literalWrite := true } }

/-- `signal diag_unknown_ext` (00_scope.md R13; 45_extended.md R251). -/
def State.signalUnknownExt (s : State) : State := { s with diag := { s.diag with unknownExt := true } }

/-! ### The Word Stream and fetching -/

/-- `pc <- (pc + 1) mod 2^16`: the position advances past one word (00_scope.md R11). -/
def State.advancePc (s : State) : State := s.setPc (s.pc + 1)

/-- `NextWord()`: the word at `pc`, and `pc` advanced by one (00_scope.md R11; 10_state.md R33). -/
def nextWord (s : State) : Word × State := (s.cell s.pc, s.advancePc)

/-- `peek()`: the instruction at `pc`, with its extra words, and no change of state (60_exceptions.md R281). -/
def peek (s : State) : Instr := decode (s.cell s.pc) (s.cell (s.pc + 1)) (s.cell (s.pc + 2))

/-- The fetch of an instruction: the instruction at `pc`, and the state after `NextWord()` has taken its first word
(41_execution.md R150, R151). The extra words are passed over as the operands that carry them are resolved. -/
def fetch (s : State) : Instr × State := (peek s, (nextWord s).2)

/-- The outputs of a step are cleared at its start (41_execution.md R150). -/
def beginStep (s : State) : State := s.clearDiag

/-! ### The stack (10_state.md R36) -/

/-- `sp <- (sp - 1) mod 2^16`. -/
def State.lowerSp (s : State) : State := s.setSp (s.sp - 1)

/-- `sp <- (sp + 1) mod 2^16`. -/
def State.raiseSp (s : State) : State := s.setSp (s.sp + 1)

/-- The push of JSR: `sp` falls by one and `v` is written at the new `sp` (10_state.md R36; 45_extended.md R250). -/
def push (v : Word) (s : State) : State := s.lowerSp.setCell s.lowerSp.sp v

end Sys2Proof.Machine
end

