-- ==== Sys2Proof/Machine/Operands.lean ====
section
/-!
DEFINITION. The addressing-mode resolver, operand access, the common pattern of the basic opcodes and the skip-decoder
(40_operands.md; 41_execution.md R154–R161).
-/

namespace Sys2Proof.Machine

/-- The special registers (00_scope.md R12; 10_state.md R39). -/
inductive Special where
  | pc | sp | ov
  deriving DecidableEq, Repr

/-- A resolved operand (00_scope.md R12). -/
inductive Resolved where
  | imm (v : Word)
  | reg (r : Reg)
  | spec (p : Special)
  | mem (a : Word)
  deriving DecidableEq, Repr

/-- Assignability is a function of the tag: everything but an immediate (00_scope.md R12; 40_operands.md R137). -/
def assignable : Resolved → Bool
  | .imm _ => false
  | .reg _ => true
  | .spec _ => true
  | .mem _ => true

/-- `Resolve(c)`: the resolved operand, and the state after the `pc` advance of the extra word and the mode's side effect
on `sp` (40_operands.md R120–R134). -/
def resolve (opd : Operand) (s : State) : Resolved × State :=
  match opd with
  | .reg r => (.reg r, s)
  | .ind r => (.mem (s.reg r), s)
  | .indOff n r => (.mem (n + s.reg r), s.advancePc)
  | .pop => (.mem s.sp, s.raiseSp)
  | .peek => (.mem s.sp, s)
  | .push => (.mem s.lowerSp.sp, s.lowerSp)
  | .sp => (.spec .sp, s)
  | .pc => (.spec .pc, s)
  | .o => (.spec .ov, s)
  | .abs n => (.mem n, s.advancePc)
  | .next n => (.imm n, s.advancePc)
  | .lit v => (.imm (Word.wrap v.toNat), s)

/-- `Read`: the current content of the slot, with no side effect (40_operands.md R135). -/
def readLoc (loc : Resolved) (s : State) : Word :=
  match loc with
  | .imm v => v
  | .reg r => s.reg r
  | .spec .pc => s.pc
  | .spec .sp => s.sp
  | .spec .ov => s.ov
  | .mem a => s.cell a

/-- `Write`: the slot takes `v`; a write through an immediate stores nothing and is signalled, and nothing else of
the instruction is suppressed (40_operands.md R136; UNVERIFIED, unsafe: notes/assumptions/10.md). -/
def writeLoc (loc : Resolved) (v : Word) (s : State) : State :=
  match loc with
  | .imm _ => s.signalLiteralWrite
  | .reg r => s.setReg r v
  | .spec .pc => s.setPc v
  | .spec .sp => s.setSp v
  | .spec .ov => s.setOv v
  | .mem a => s.setCell a v

/-- Resolve the operands of a list in order and discard the locations: what is left is the `pc` advance and the `sp` side
effects. -/
def passOver (opds : List Operand) (s : State) : State := opds.foldl (fun t opd => (resolve opd t).2) s

/-- `SkipInstruction()`: the words of the instruction at `pc` are consumed and the side effects of its operand codes
applied; nothing else happens (41_execution.md R158). Of an opcode-0 word only operand B is decoded, whatever its selector
(UNVERIFIED, unsafe: notes/assumptions/12.md). -/
def skipInstruction (s : State) : State := passOver (fetch s).1.operands (fetch s).2

/-- Both operands resolved, A strictly before B (41_execution.md R154, R155): A, B and the state after. -/
def resolveBoth (a b : Operand) (s : State) : Resolved × Resolved × State :=
  let (ra, s₁) := resolve a s
  let (rb, s₂) := resolve b s₁
  (ra, rb, s₂)

/-- What `Compute_op(va, vb)` yields (41_execution.md R154): `res` if `hasRes`, `ovNew` if `hasOv`, `cond` if `isCond`. -/
structure Computed where
  res : Option Word := none
  ovNew : Option Word := none
  cond : Option Bool := none
  deriving DecidableEq, Repr

/-- `if hasRes: Write(A, res)` (41_execution.md R154). -/
def writeBack (ra : Resolved) (c : Computed) (s : State) : State :=
  match c.res with
  | some v => writeLoc ra v s
  | none => s

/-- `if hasOv: ov <- ovNew`, after the write of the result (41_execution.md R157; UNVERIFIED, unsafe:
notes/assumptions/7.md). -/
def updateOv (c : Computed) (s : State) : State :=
  match c.ovNew with
  | some v => s.setOv v
  | none => s

/-- `if isCond and not cond: SkipInstruction()`, in the same step (41_execution.md R154, R161). -/
def skipIfFalse (c : Computed) (s : State) : State :=
  match c.cond with
  | some false => skipInstruction s
  | some true => s
  | none => s

/-- `ExecBasic`: decode A, decode B, read both values, compute, write the result through A, update `ov`, skip
(41_execution.md R154). -/
def execBasic (compute : Word → Word → Computed) (a b : Operand) (s : State) : State :=
  let (ra, rb, s₂) := resolveBoth a b s
  let c := compute (readLoc ra s₂) (readLoc rb s₂)
  skipIfFalse c (updateOv c (writeBack ra c s₂))

end Sys2Proof.Machine
end

