-- ==== Sys2Proof/Machine/Arith.lean ====
section
/-!
DEFINITION. SET and the arithmetic and shift opcodes (42_set_arith.md).

Each `compute…` is the rule's `Compute_op(va, vb)`; each meaning is the common pattern of 41_execution.md R154 over it.
-/

namespace Sys2Proof.Machine

/-- `Compute_SET` (42_set_arith.md R180); `ov` is unchanged (UNVERIFIED, unsafe: notes/assumptions/6.md). -/
def computeSet (_va vb : Word) : Computed := { res := some vb }

/-- `Compute_ADD` (42_set_arith.md R181). -/
def computeAdd (va vb : Word) : Computed :=
  { res := some (Word.wrap (va.toNat + vb.toNat)), ovNew := some (addOverflow va vb) }

/-- `Compute_SUB` (42_set_arith.md R182). -/
def computeSub (va vb : Word) : Computed :=
  { res := some (Word.wrap (va.toNat + 2 ^ 16 - vb.toNat)), ovNew := some (subOverflow va vb) }

/-- `Compute_MUL` (42_set_arith.md R183). -/
def computeMul (va vb : Word) : Computed :=
  { res := some (Word.wrap (va.toNat * vb.toNat)), ovNew := some (mulOverflow va vb) }

/-- `Compute_DIV` (42_set_arith.md R184): division by zero is defined. -/
def computeDiv (va vb : Word) : Computed :=
  { res := some (if vb = 0 then 0x0000 else Word.wrap (va.toNat / vb.toNat)), ovNew := some (divOverflow va vb) }

/-- `Compute_MOD` (42_set_arith.md R185); `ov` is unchanged (UNVERIFIED, unsafe: notes/assumptions/6.md). -/
def computeMod (va vb : Word) : Computed :=
  { res := some (if vb = 0 then 0x0000 else Word.wrap (va.toNat % vb.toNat)) }

/-- `Compute_SHL` (42_set_arith.md R186): the shift amount is the full 16-bit value (UNVERIFIED, unsafe:
notes/assumptions/8.md). -/
def computeShl (va vb : Word) : Computed :=
  { res := some (Word.wrap (va.toNat <<< vb.toNat)), ovNew := some (shlOverflow va vb) }

/-- `Compute_SHR` (42_set_arith.md R187): a logical shift by the full 16-bit value (UNVERIFIED, unsafe:
notes/assumptions/8.md). -/
def computeShr (va vb : Word) : Computed :=
  { res := some (Word.wrap (va.toNat >>> vb.toNat)), ovNew := some (shrOverflow va vb) }

/-- SET (42_set_arith.md R180). -/
def execSet (a b : Operand) (s : State) : Host.Outcome State Fault Refusal := .next (execBasic computeSet a b s)

/-- ADD (42_set_arith.md R181). -/
def execAdd (a b : Operand) (s : State) : Host.Outcome State Fault Refusal := .next (execBasic computeAdd a b s)

/-- SUB (42_set_arith.md R182). -/
def execSub (a b : Operand) (s : State) : Host.Outcome State Fault Refusal := .next (execBasic computeSub a b s)

/-- MUL (42_set_arith.md R183). -/
def execMul (a b : Operand) (s : State) : Host.Outcome State Fault Refusal := .next (execBasic computeMul a b s)

/-- DIV (42_set_arith.md R184). -/
def execDiv (a b : Operand) (s : State) : Host.Outcome State Fault Refusal := .next (execBasic computeDiv a b s)

/-- MOD (42_set_arith.md R185). -/
def execMod (a b : Operand) (s : State) : Host.Outcome State Fault Refusal := .next (execBasic computeMod a b s)

/-- SHL (42_set_arith.md R186). -/
def execShl (a b : Operand) (s : State) : Host.Outcome State Fault Refusal := .next (execBasic computeShl a b s)

/-- SHR (42_set_arith.md R187). -/
def execShr (a b : Operand) (s : State) : Host.Outcome State Fault Refusal := .next (execBasic computeShr a b s)

end Sys2Proof.Machine
end

