-- ==== Sys2Proof/Machine/Bitwise.lean ====
section
/-!
DEFINITION. The bitwise opcodes AND, BOR and XOR (43_bitwise.md). None of them updates `ov`.
-/

namespace Sys2Proof.Machine

/-- `Compute_AND` (43_bitwise.md R210). -/
def computeAnd (va vb : Word) : Computed := { res := some (va &&& vb) }

/-- `Compute_BOR` (43_bitwise.md R211). -/
def computeBor (va vb : Word) : Computed := { res := some (va ||| vb) }

/-- `Compute_XOR` (43_bitwise.md R212). -/
def computeXor (va vb : Word) : Computed := { res := some (va ^^^ vb) }

/-- AND (43_bitwise.md R210). -/
def execAnd (a b : Operand) (s : State) : Host.Outcome State Fault Refusal := .next (execBasic computeAnd a b s)

/-- BOR (43_bitwise.md R211). -/
def execBor (a b : Operand) (s : State) : Host.Outcome State Fault Refusal := .next (execBasic computeBor a b s)

/-- XOR (43_bitwise.md R212). -/
def execXor (a b : Operand) (s : State) : Host.Outcome State Fault Refusal := .next (execBasic computeXor a b s)

end Sys2Proof.Machine
end

