-- ==== Sys2Proof/Machine/Conditional.lean ====
section
/-!
DEFINITION. The conditional opcodes IFE, IFN, IFG and IFB (44_conditional.md).

They write nothing; a false condition skips the next instruction within the same step (R234; 41_execution.md R161).
-/

namespace Sys2Proof.Machine

/-- `cond_IFE`: A equals B (44_conditional.md R230). -/
def computeIfe (va vb : Word) : Computed := { cond := some (decide (va = vb)) }

/-- `cond_IFN`: A differs from B (44_conditional.md R231). -/
def computeIfn (va vb : Word) : Computed := { cond := some (decide (va ≠ vb)) }

/-- `cond_IFG`: A is greater than B, unsigned (44_conditional.md R232). -/
def computeIfg (va vb : Word) : Computed := { cond := some (decide (va.toNat > vb.toNat)) }

/-- `cond_IFB`: A and B have a set bit in common (44_conditional.md R233). -/
def computeIfb (va vb : Word) : Computed := { cond := some (decide (va &&& vb ≠ 0)) }

/-- IFE (44_conditional.md R230, R234). -/
def execIfe (a b : Operand) (s : State) : Host.Outcome State Fault Refusal := .next (execBasic computeIfe a b s)

/-- IFN (44_conditional.md R231, R234). -/
def execIfn (a b : Operand) (s : State) : Host.Outcome State Fault Refusal := .next (execBasic computeIfn a b s)

/-- IFG (44_conditional.md R232, R234). -/
def execIfg (a b : Operand) (s : State) : Host.Outcome State Fault Refusal := .next (execBasic computeIfg a b s)

/-- IFB (44_conditional.md R233, R234). -/
def execIfb (a b : Operand) (s : State) : Host.Outcome State Fault Refusal := .next (execBasic computeIfb a b s)

end Sys2Proof.Machine
end

