-- ==== Sys2Proof/Machine/Extended.lean ====
section
/-!
DEFINITION. The extended form: JSR and the unknown selectors (45_extended.md).
-/

namespace Sys2Proof.Machine

/-- `ExecJSR`: the operand is resolved and its value read, then the address of the next instruction is pushed, then `pc`
takes the value read (45_extended.md R250; UNVERIFIED, unsafe: notes/assumptions/9.md). -/
def execJsr (b : Operand) (s : State) : Host.Outcome State Fault Refusal :=
  let (rb, s₁) := resolve b s
  let target := readLoc rb s₁
  let ret := s₁.pc
  .next ((push ret s₁).setPc target)

/-- `ExecUnknownExt` under a given `UNKNOWN_EXT_POLICY` (45_extended.md R251). -/
def unknownExtUnder (policy : Config.UnknownExtPolicy) (b : Operand) (s : State) : Host.Outcome State Fault Refusal :=
  match policy with
  | .nop => .next (resolve b s).2.signalUnknownExt
  | .fault => .fault .stuckUnknownExt

/-- An unknown extended instruction: the selector has no effect of its own (45_extended.md R251; UNVERIFIED, unsafe:
notes/assumptions/3.md). The ill-formed selector 0x01 is treated alike (DESIGN CHOICE, safe: notes/assumptions/17.md). -/
def execUnknownExt (_sel : BitVec 6) (b : Operand) (s : State) : Host.Outcome State Fault Refusal :=
  unknownExtUnder Config.unknownExtPolicy b s

end Sys2Proof.Machine
end

