-- ==== Sys2Proof/Machine/Step.lean ====
section
/-!
DEFINITION. One step of the core, and the placing of an instruction where the next step fetches it.
-/

namespace Sys2Proof.Machine

/-- `Step()`: the diagnostic outputs are cleared, the instruction at `pc` is fetched, `pc` advances past its first word,
and it executes (41_execution.md R150). One step is one whole instruction with the skip that follows it (00_scope.md R16;
UNVERIFIED, unsafe: notes/assumptions/13.md). -/
def step (s : State) : Host.Outcome State Fault Refusal := exec (fetch (beginStep s)).1 (fetch (beginStep s)).2

/-- The state with the instruction whose bits are `w`, numbered as spec/opcode_table.json numbers them, placed at `pc` and
the two words after it. The address wraps past 0xFFFF (20_memory.md R67). That these words are placed from outside:
notes/assumptions/2.md; how the bits are laid out: DESIGN CHOICE, safe: notes/assumptions/16.md. -/
def State.withFetchWord (s : State) (nbits w : Nat) : State :=
  ((s.setCell s.pc (tableWord nbits w 0)).setCell (s.pc + 1) (tableWord nbits w 1)).setCell (s.pc + 2) (tableWord nbits w 2)

end Sys2Proof.Machine
end

