-- ==== Sys2Proof/Machine/Policy.lean ====
section
/-!
DEFINITION. The core with its parameter `UNKNOWN_EXT_POLICY` as an argument (00_scope.md R7; 45_extended.md R251).

The host's interface fixes the types of `exec` and `step`, which leave no room for the parameter: they run under
`Config.unknownExtPolicy`. `execUnder` and `stepUnder` run under either setting.
-/

namespace Sys2Proof.Machine

/-- An instruction under a given `UNKNOWN_EXT_POLICY`: the policy decides what an unknown extended instruction does, and no
other instruction depends on it (45_extended.md R251; 41_execution.md R162). -/
def execUnder (policy : Config.UnknownExtPolicy) (i : Instr) (s : State) : Host.Outcome State Fault Refusal :=
  match i with
  | .set a b => exec (.set a b) s
  | .add a b => exec (.add a b) s
  | .sub a b => exec (.sub a b) s
  | .mul a b => exec (.mul a b) s
  | .div a b => exec (.div a b) s
  | .mod a b => exec (.mod a b) s
  | .shl a b => exec (.shl a b) s
  | .shr a b => exec (.shr a b) s
  | .and a b => exec (.and a b) s
  | .bor a b => exec (.bor a b) s
  | .xor a b => exec (.xor a b) s
  | .ife a b => exec (.ife a b) s
  | .ifn a b => exec (.ifn a b) s
  | .ifg a b => exec (.ifg a b) s
  | .ifb a b => exec (.ifb a b) s
  | .jsr b => exec (.jsr b) s
  | .unknownExt _ b => unknownExtUnder policy b s

/-- `Step()` under a given `UNKNOWN_EXT_POLICY` (41_execution.md R150, R162). -/
def stepUnder (policy : Config.UnknownExtPolicy) (s : State) : Host.Outcome State Fault Refusal :=
  execUnder policy (fetch (beginStep s)).1 (fetch (beginStep s)).2

end Sys2Proof.Machine
end

