-- ==== Sys2Proof/Machine/HostIface.lean ====
section
/-!
DEFINITION. What the host does to the core between steps (60_exceptions.md R280–R283; 70_reset_and_hazards.md R300–R311).

`step()` is `Machine.step`, whose next state carries the step's diagnostic outputs; `peek()` is `Machine.peek`;
`read_state()` is the state itself; `cancel` is the host's not calling `step` again. `observe` takes all the parameters of a
run as arguments: the policy, the image and the number of steps (00_scope.md R7; 70_reset_and_hazards.md R311).
-/

namespace Sys2Proof.Machine

/-- Memory with the words of `image` from address `k` on, in order. -/
def loadFrom : Nat → List Word → Memory → Memory
  | _, [], m => m
  | k, w :: ws, m => loadFrom (k + 1) ws (writeMem m (Word.wrap k) w)

/-- `reset(image)`: the reset state with word `i` of the image at address `i`; an image that does not fit the memory is
refused and no state is created (70_reset_and_hazards.md R300, R304; DEDUCED, unsafe: notes/assumptions/2.md). -/
def resetImage (image : List Word) : Option State :=
  if image.length ≤ Config.memWords then some { State.reset with mem := loadFrom 0 image [] } else none

/-- The core under a given `UNKNOWN_EXT_POLICY`; `Sys2Proof.core` is the one under `Config.unknownExtPolicy`
(00_scope.md R7). -/
def coreUnder (policy : Config.UnknownExtPolicy) : Host.Core :=
  { State := State, Fault := Fault, Refusal := Refusal, step := stepUnder policy, reset := State.reset }

/-- `n` steps from `s`, or the stop at the first state from which no step exists (70_reset_and_hazards.md R311). -/
def runUnder (policy : Config.UnknownExtPolicy) (n : Nat) (s : State) : Host.Outcome State Fault Refusal :=
  Host.Core.run (coreUnder policy) n s

/-- The observation of a run: the outcome after `n` steps from `reset(image)`, if that creates a state (00_scope.md R7;
70_reset_and_hazards.md R311; 92_eei_decisions.md D14). -/
def observe (policy : Config.UnknownExtPolicy) (image : List Word) (n : Nat) :
    Option (Host.Outcome State Fault Refusal) :=
  (resetImage image).map (runUnder policy n)

/-- The words of an image file of whole words, each stored as two bytes in the order the loader parameter names
(20_memory.md R66; DESIGN CHOICE, safe: notes/assumptions/14.md). -/
def imageOfBytes (order : Config.ImageByteOrder) (file : List (BitVec 8 × BitVec 8)) : List Word :=
  match order with
  | .lowFirst => file.map fun p => p.2 ++ p.1
  | .highFirst => file.map fun p => p.1 ++ p.2

/-- The one symbol the core supplies to the condition evaluator: "IP", in any case, is the current `pc`
(60_exceptions.md R283). -/
def hostSymbol (name : List Char) (s : State) : Option Word :=
  if name.map Char.toUpper = ['I', 'P'] then some s.pc else none

/-- What the evaluator's three-valued result tells a run-until loop (60_exceptions.md R283). -/
inductive RunVerdict where
  | parseFailure | continueStepping | stop
  deriving DecidableEq, Repr

/-- Negative is a parse failure, zero continues, positive stops (60_exceptions.md R283). -/
def runVerdict (n : Int) : RunVerdict :=
  if n < 0 then .parseFailure else if n = 0 then .continueStepping else .stop

end Sys2Proof.Machine
end

