-- ==== Sys2Proof/Safety.lean ====
section
/-!
DEFINITION. The terms the claims use: what a good state and a completing step are, and what an instruction names.
-/

namespace Sys2Proof

/-- The change an operand's decode makes to `sp`: POP raises it by one, PUSH lowers it by one (40_operands.md R124, R126,
R133). -/
def Operand.spChange : Operand → Word
  | .reg _ => 0
  | .ind _ => 0
  | .indOff _ _ => 0
  | .pop => 1
  | .peek => 0
  | .push => -1
  | .sp => 0
  | .pc => 0
  | .o => 0
  | .abs _ => 0
  | .next _ => 0
  | .lit _ => 0

/-- The operand is a literal, which is never assignable (40_operands.md R131, R132, R137). -/
def Operand.isLiteral : Operand → Bool
  | .reg _ => false
  | .ind _ => false
  | .indOff _ _ => false
  | .pop => false
  | .peek => false
  | .push => false
  | .sp => false
  | .pc => false
  | .o => false
  | .abs _ => false
  | .next _ => true
  | .lit _ => true

/-- The operands A and B of an instruction that writes its result back through A (41_execution.md R153). -/
def Instr.writesBack : Instr → Option (Operand × Operand)
  | .set a b => some (a, b)
  | .add a b => some (a, b)
  | .sub a b => some (a, b)
  | .mul a b => some (a, b)
  | .div a b => some (a, b)
  | .mod a b => some (a, b)
  | .shl a b => some (a, b)
  | .shr a b => some (a, b)
  | .and a b => some (a, b)
  | .bor a b => some (a, b)
  | .xor a b => some (a, b)
  | .ife _ _ => none
  | .ifn _ _ => none
  | .ifg _ _ => none
  | .ifb _ _ => none
  | .jsr _ => none
  | .unknownExt _ _ => none

/-- The instructions that update `ov` as a side effect (10_state.md R37; 41_execution.md R153). -/
def Instr.updatesOv : Instr → Bool
  | .set _ _ => false
  | .add _ _ => true
  | .sub _ _ => true
  | .mul _ _ => true
  | .div _ _ => true
  | .mod _ _ => false
  | .shl _ _ => true
  | .shr _ _ => true
  | .and _ _ => false
  | .bor _ _ => false
  | .xor _ _ => false
  | .ife _ _ => false
  | .ifn _ _ => false
  | .ifg _ _ => false
  | .ifb _ _ => false
  | .jsr _ => false
  | .unknownExt _ _ => false

/-- The operands and the condition of a conditional (44_conditional.md R230–R234). -/
def Instr.condition : Instr → Option (Operand × Operand × (Word → Word → Bool))
  | .set _ _ => none
  | .add _ _ => none
  | .sub _ _ => none
  | .mul _ _ => none
  | .div _ _ => none
  | .mod _ _ => none
  | .shl _ _ => none
  | .shr _ _ => none
  | .and _ _ => none
  | .bor _ _ => none
  | .xor _ _ => none
  | .ife a b => some (a, b, fun va vb => va == vb)
  | .ifn a b => some (a, b, fun va vb => va != vb)
  | .ifg a b => some (a, b, fun va vb => vb.ult va)
  | .ifb a b => some (a, b, fun va vb => (va &&& vb) != 0)
  | .jsr _ => none
  | .unknownExt _ _ => none

/-- Is the instruction an unknown extended one? (30_encoding.md R98). -/
def Instr.isUnknownExt : Instr → Bool
  | .set _ _ => false
  | .add _ _ => false
  | .sub _ _ => false
  | .mul _ _ => false
  | .div _ _ => false
  | .mod _ _ => false
  | .shl _ _ => false
  | .shr _ _ => false
  | .and _ _ => false
  | .bor _ _ => false
  | .xor _ _ => false
  | .ife _ _ => false
  | .ifn _ _ => false
  | .ifg _ _ => false
  | .ifb _ _ => false
  | .jsr _ => false
  | .unknownExt _ _ => true

namespace Machine

/-- The invariant of the model: memory is in its canonical form. Every other field admits every value (10_state.md R39). -/
def State.Inv (s : State) : Prop := s.mem.wf = true

/-- A step from `s` completes: it answers a next state (41_execution.md R162). -/
def Completes (s : State) : Prop := ∃ t, step s = .next t

end Machine

end Sys2Proof
end

