-- ==== Sys2Proof/Certificates/Slice0/Obligations.lean ====
section
/-!
DEFINITION. The statements for the provers, and the terms they are written in.

`Sys2Proof.Claims` holds the terms: the state after both operands are decoded, the effect of a skip in terms of raw
operand codes, and a transcription of the spec's pseudocode, over raw codes and `NextWord()`, that the machine is compared
with.
-/

open Sys2Proof Sys2Proof.Machine

namespace Sys2Proof.Claims

/-! ### The common pattern of the basic opcodes (41_execution.md R154) -/

/-- The state once A and then B are decoded. -/
def decoded (a b : Operand) (s : State) : State := (resolveBoth a b s).2.2

/-- A as a location. -/
def locA (a b : Operand) (s : State) : Resolved := (resolveBoth a b s).1

/-- `va`: the value of A, read after both decodes. -/
def valA (a b : Operand) (s : State) : Word := readLoc (resolveBoth a b s).1 (decoded a b s)

/-- `vb`: the value of B, read after both decodes. -/
def valB (a b : Operand) (s : State) : Word := readLoc (resolveBoth a b s).2.1 (decoded a b s)

/-- The state after a result of value `res` is written through A (R136). -/
def resultWritten (a b : Operand) (s : State) (res : Nat) : State :=
  writeLoc (locA a b s) (BitVec.ofNat 16 res) (decoded a b s)

/-- The state after a result of value `res` is written through A and then `ov` takes `ov` (R157). -/
def resultAndOv (a b : Operand) (s : State) (res ov : Nat) : State := (resultWritten a b s res).setOv (BitVec.ofNat 16 ov)

/-- `i` is in the basic format with opcode `op`: its word is `b * 2^10 + a * 2^4 + op` (30_encoding.md R90, R92). -/
def EncodedAs (i : Instr) (op : Nat) (a b : Operand) : Prop :=
  i.firstWord.toNat = b.code.toNat * 1024 + a.code.toNat * 16 + op

/-! ### Lengths and skips by raw codes (30_encoding.md R94; 41_execution.md R158–R160) -/

/-- `e(c)` of R94. -/
def extra (c : Nat) : Nat := if (0x10 ≤ c ∧ c ≤ 0x17) ∨ c = 0x1E ∨ c = 0x1F then 1 else 0

/-- `L(w)` of R94. -/
def lengthOf (w : Word) : Nat :=
  if w.toNat % 16 ≠ 0 then 1 + extra (w.toNat / 16 % 64) + extra (w.toNat / 1024) else 1 + extra (w.toNat / 1024)

/-- What the decode of operand code `c` adds to `sp` (40_operands.md R124, R126, R133). -/
def stackEffect (c : Nat) : Word := if c = 0x18 then 1 else if c = 0x1A then -1 else 0

/-- What passing over the instruction with first word `w` adds to `sp` (41_execution.md R158, R160). -/
def skipStackEffect (w : Word) : Word :=
  if w.toNat % 16 ≠ 0 then stackEffect (w.toNat / 16 % 64) + stackEffect (w.toNat / 1024) else stackEffect (w.toNat / 1024)

/-- The state after the instruction at `pc` is skipped: `pc` past its words, `sp` moved by its POP and PUSH codes. -/
def skipped (s : State) : State :=
  (s.setPc (s.pc + BitVec.ofNat 16 (lengthOf (s.cell s.pc)))).setSp (s.sp + skipStackEffect (s.cell s.pc))

/-! ### The spec's pseudocode over raw codes -/

/-- Register number `k` (10_state.md R31). -/
def regNumber (k : Nat) : Reg := [Reg.a, .b, .c, .x, .y, .z, .i, .j].getD k .a

/-- `Resolve(c)` with `NextWord()` (40_operands.md R121–R132). -/
def pseudoResolve (c : Nat) (s : State) : Resolved × State :=
  if c ≤ 0x07 then (.reg (regNumber c), s)
  else if c ≤ 0x0F then (.mem (s.reg (regNumber (c - 0x08))), s)
  else if c ≤ 0x17 then
    let (n, s') := nextWord s
    (.mem (BitVec.ofNat 16 ((n.toNat + (s'.reg (regNumber (c - 0x10))).toNat) % 65536)), s')
  else if c = 0x18 then (.mem s.sp, s.setSp (s.sp + 1))
  else if c = 0x19 then (.mem s.sp, s)
  else if c = 0x1A then (.mem (s.sp - 1), s.setSp (s.sp - 1))
  else if c = 0x1B then (.spec .sp, s)
  else if c = 0x1C then (.spec .pc, s)
  else if c = 0x1D then (.spec .ov, s)
  else if c = 0x1E then
    let (n, s') := nextWord s
    (.mem n, s')
  else if c = 0x1F then
    let (n, s') := nextWord s
    (.imm n, s')
  else (.imm (BitVec.ofNat 16 (c - 0x20)), s)

/-- `Compute_op(va, vb)`: the result, the new `ov`, the condition (42_set_arith.md R180–R187; 43_bitwise.md R210–R212;
44_conditional.md R230–R233). -/
def pseudoCompute (op va vb : Nat) : Option Nat × Option Nat × Option Bool :=
  match op with
  | 0x1 => (some vb, none, none)
  | 0x2 => (some ((va + vb) % 65536), some (if va + vb > 65535 then 1 else 0), none)
  | 0x3 => (some ((va + 65536 - vb) % 65536), some (if va < vb then 65535 else 0), none)
  | 0x4 => (some (va * vb % 65536), some (va * vb / 65536), none)
  | 0x5 => if vb = 0 then (some 0, some 0, none) else (some (va / vb), some (va * 65536 / vb % 65536), none)
  | 0x6 => (some (if vb = 0 then 0 else va % vb), none, none)
  | 0x7 => (some (va * 2 ^ vb % 65536), some (va * 2 ^ vb / 65536 % 65536), none)
  | 0x8 => (some (va / 2 ^ vb), some (va * 65536 / 2 ^ vb % 65536), none)
  | 0x9 => (some (va &&& vb), none, none)
  | 0xA => (some (va ||| vb), none, none)
  | 0xB => (some (va ^^^ vb), none, none)
  | 0xC => (none, none, some (va == vb))
  | 0xD => (none, none, some (va != vb))
  | 0xE => (none, none, some (decide (va > vb)))
  | 0xF => (none, none, some ((va &&& vb) != 0))
  | _ => (none, none, none)

/-- `SkipInstruction()` (41_execution.md R158). -/
def pseudoSkip (s : State) : State :=
  let (w, s₁) := nextWord s
  if w.toNat % 16 = 0 then (pseudoResolve (w.toNat / 1024) s₁).2
  else (pseudoResolve (w.toNat / 1024) (pseudoResolve (w.toNat / 16 % 64) s₁).2).2

/-- `ExecBasic(op, a, b)` (41_execution.md R154). -/
def pseudoBasic (op a b : Nat) (s : State) : State :=
  let (ra, s₁) := pseudoResolve a s
  let (rb, s₂) := pseudoResolve b s₁
  let (res, ovNew, cond) := pseudoCompute op (readLoc ra s₂).toNat (readLoc rb s₂).toNat
  let s₃ := match res with
    | some v => writeLoc ra (BitVec.ofNat 16 v) s₂
    | none => s₂
  let s₄ := match ovNew with
    | some v => s₃.setOv (BitVec.ofNat 16 v)
    | none => s₃
  if cond = some false then pseudoSkip s₄ else s₄

/-- `ExecJSR(b)` (45_extended.md R250). -/
def pseudoJsr (b : Nat) (s : State) : State :=
  let (rb, s₁) := pseudoResolve b s
  let t := readLoc rb s₁
  let ret := s₁.pc
  let s₂ := s₁.setSp (s₁.sp - 1)
  let s₃ := s₂.setCell s₂.sp ret
  s₃.setPc t

/-- `ExecUnknownExt(sel, b)` under the policy `nop` (45_extended.md R251). -/
def pseudoUnknownExt (b : Nat) (s : State) : State := (pseudoResolve b s).2.signalUnknownExt

/-- `Step()` (41_execution.md R150), under the policy `nop`. -/
def pseudoStep (s : State) : State :=
  let (w, s₁) := nextWord s.clearDiag
  let op := w.toNat % 16
  let a := w.toNat / 16 % 64
  let b := w.toNat / 1024
  if op = 0 then if a = 1 then pseudoJsr b s₁ else pseudoUnknownExt b s₁
  else pseudoBasic op a b s₁

end Sys2Proof.Claims

open Sys2Proof.Claims

/-! ### Encoding (30_encoding.md) -/

/-- Decoding the words of a well-formed instruction, whatever words follow, gives the instruction back and leaves those
words (30_encoding.md R90–R94). -/
def Obligations.DecodeOfEncodeGivesTheInstruction : Prop :=
  ∀ (i : Instr) (rest : List Word), i.wellFormed = true → decodeWords (encode i ++ rest) = .ok (i, rest)

/-- Whatever the decoder reads is well formed and encodes back to the very words it was read from: each word has one
meaning (30_encoding.md R99). -/
def Obligations.EncodeOfDecodeGivesTheWords : Prop :=
  ∀ (ws rest : List Word) (i : Instr), decodeWords ws = .ok (i, rest) → i.wellFormed = true ∧ encode i ++ rest = ws

/-- 30_encoding.md R94: the length of an instruction, and the order of its extra words, A's before B's; in the extended
format the selector takes none. -/
def Obligations.InstructionLengthAndExtraWords : Prop :=
  ∀ w n₁ n₂ : Word,
    let eA := extra (w.toNat / 16 % 64)
    let eB := extra (w.toNat / 1024)
    encode (decode w n₁ n₂) = w :: [n₁, n₂].take (lengthOf w - 1) ∧
      wordLength w = lengthOf w ∧ 1 ≤ lengthOf w ∧ lengthOf w ≤ 3 ∧
      (w.toNat % 16 = 0 → lengthOf w ≤ 2 ∧ (decode w n₁ n₂).operands.map Operand.words = [[n₁].take eB]) ∧
      (w.toNat % 16 ≠ 0 →
        (decode w n₁ n₂).operands.map Operand.words = [[n₁].take eA, ([n₁, n₂].drop eA).take eB])

/-- 30_encoding.md R90, R91: the fields of the instruction word. In the basic format the low four bits are the opcode, the
next six the operand-A code, the high six the operand-B code; in the extended format the opcode is 0, the next six bits
are the selector and the high six the sole operand's code; selector 0x01 is JSR, and only it. -/
def Obligations.InstructionWordFields : Prop :=
  ∀ w n₁ n₂ : Word,
    let i := decode w n₁ n₂
    (w.toNat % 16 ≠ 0 → i.opcode.toNat = w.toNat % 16 ∧
      i.operands.map (fun opd => opd.code.toNat) = [w.toNat / 16 % 64, w.toNat / 1024]) ∧
    (w.toNat % 16 = 0 → ∃ b : Operand, b.code.toNat = w.toNat / 1024 ∧
      (w.toNat / 16 % 64 = 0x01 ∧ i = .jsr b ∨
        ∃ sel : BitVec 6, sel.toNat ≠ 0x01 ∧ sel.toNat = w.toNat / 16 % 64 ∧ i = .unknownExt sel b))

/-- 30_encoding.md R97: which opcode id each mnemonic has. The pairing is the spec's own decision (92_eei_decisions.md D3;
notes/assumptions/5.md). -/
def Obligations.BasicOpcodeMap : Prop :=
  ∀ (k : Nat) (mk : Operand → Operand → Instr),
    (k, mk) ∈ [(0x1, Instr.set), (0x2, .add), (0x3, .sub), (0x4, .mul), (0x5, .div), (0x6, .mod), (0x7, .shl), (0x8, .shr),
      (0x9, .and), (0xA, .bor), (0xB, .xor), (0xC, .ife), (0xD, .ifn), (0xE, .ifg), (0xF, .ifb)] →
    ∀ w n₁ n₂ : Word, w.toNat % 16 = k → ∃ a b : Operand, decode w n₁ n₂ = mk a b

/-- 30_encoding.md R98, R99: under opcode 0x0 selector 0x01 is JSR and every other selector an unknown extended
instruction, the all-zero word among them; and no word traps: whatever a word decodes to answers a next state in every
state. That the unknown selectors do so is the policy `nop` (92_eei_decisions.md D9; notes/assumptions/3.md). -/
def Obligations.EveryWordIsAnInstructionThatRuns : Prop :=
  ∀ w n₁ n₂ : Word,
    (w.toNat % 16 = 0 → w.toNat / 16 % 64 = 1 → ∃ b, decode w n₁ n₂ = .jsr b) ∧
    (w.toNat % 16 = 0 → w.toNat / 16 % 64 ≠ 1 →
      ∃ b, decode w n₁ n₂ = .unknownExt (BitVec.ofNat 6 (w.toNat / 16 % 64)) b) ∧
    decode 0x0000 n₁ n₂ = .unknownExt 0x00 (.reg .a) ∧
    ∀ s : State, ∃ t, exec (decode w n₁ n₂) s = .next t

/-- 30_encoding.md R106: the spec's examples of complete encodings decode to the instructions they stand for. -/
def Obligations.SampleWordsDecode : Prop :=
  decodeWords [0x8411] = .ok (.set (.reg .b) (.lit 1), []) ∧
  decodeWords [0x8811] = .ok (.set (.reg .b) (.lit 2), []) ∧
  decodeWords [0x000D] = .ok (.ifn (.reg .a) (.reg .a), []) ∧
  decodeWords [0x61C1] = .ok (.set .pc .pop, []) ∧
  decodeWords [0x85C3] = .ok (.sub .pc (.lit 1), []) ∧
  decodeWords [0x8402] = .ok (.add (.reg .a) (.lit 1), []) ∧
  decodeWords [0x8005] = .ok (.div (.reg .a) (.lit 0), []) ∧
  decodeWords [0x8006] = .ok (.mod (.reg .a) (.lit 0), []) ∧
  decodeWords [0x7C01, 0x1234] = .ok (.set (.reg .a) (.next 0x1234), []) ∧
  decodeWords [0x7DE1, 0x1000, 0x0040] = .ok (.set (.abs 0x1000) (.next 0x0040), []) ∧
  decodeWords [0x7D01, 0x2000, 0x0040] = .ok (.set (.indOff 0x2000 .a) (.next 0x0040), []) ∧
  decodeWords [0x7C10, 0x0100] = .ok (.jsr (.next 0x0100), [])

/-! ### Operands (40_operands.md) -/

/-- 40_operands.md R121, R122, R123, R130: register direct, `[register]`, `[next word + register]` and `[next word]`, with
the `pc` advance of the extra word; the sum wraps modulo 2^16. -/
def Obligations.RegisterAndMemoryModesResolve : Prop :=
  ∀ (c : BitVec 6) (s : State),
    let n := s.cell s.pc
    let k := c.toNat
    (k ≤ 0x07 → resolve (decodeOperand c n) s = (.reg (regNumber k), s)) ∧
    (0x08 ≤ k → k ≤ 0x0F → resolve (decodeOperand c n) s = (.mem (s.reg (regNumber (k - 0x08))), s)) ∧
    (0x10 ≤ k → k ≤ 0x17 → resolve (decodeOperand c n) s =
      (.mem (BitVec.ofNat 16 ((n.toNat + (s.reg (regNumber (k - 0x10))).toNat) % 65536)), s.setPc (s.pc + 1))) ∧
    (k = 0x1E → resolve (decodeOperand c n) s = (.mem n, s.setPc (s.pc + 1)))

/-- 40_operands.md R131, R132: both literal forms, which no instruction can assign to. -/
def Obligations.LiteralModesResolve : Prop :=
  ∀ (c : BitVec 6) (s : State),
    let n := s.cell s.pc
    let k := c.toNat
    (k = 0x1F → resolve (decodeOperand c n) s = (.imm n, s.setPc (s.pc + 1))) ∧
    (0x20 ≤ k → resolve (decodeOperand c n) s = (.imm (BitVec.ofNat 16 (k - 0x20)), s)) ∧
    (0x1F ≤ k → assignable (resolve (decodeOperand c n) s).1 = false)

/-- 40_operands.md R124, R125, R126: POP, PEEK and PUSH with their side effects on `sp`, which wraps. -/
def Obligations.StackModesResolve : Prop :=
  ∀ (c : BitVec 6) (s : State),
    let n := s.cell s.pc
    (c.toNat = 0x18 → resolve (decodeOperand c n) s = (.mem s.sp, s.setSp (BitVec.ofNat 16 ((s.sp.toNat + 1) % 65536)))) ∧
    (c.toNat = 0x19 → resolve (decodeOperand c n) s = (.mem s.sp, s)) ∧
    (c.toNat = 0x1A →
      let below := BitVec.ofNat 16 ((s.sp.toNat + 65535) % 65536)
      resolve (decodeOperand c n) s = (.mem below, s.setSp below))

/-- 40_operands.md R127, R129 (and code 0x1C of R128): the special registers are operands with no side effect. -/
def Obligations.SpecialRegisterModesResolve : Prop :=
  ∀ (c : BitVec 6) (s : State),
    let n := s.cell s.pc
    (c.toNat = 0x1B → resolve (decodeOperand c n) s = (.spec .sp, s)) ∧
    (c.toNat = 0x1C → resolve (decodeOperand c n) s = (.spec .pc, s)) ∧
    (c.toNat = 0x1D → resolve (decodeOperand c n) s = (.spec .ov, s))

/-- 10_state.md R34, 40_operands.md R128: once both operands are decoded `pc` is the address of the next instruction, and
that is what an operand PC reads. Both passages are marked derived in the spec. -/
def Obligations.OperandPcReadsTheNextInstruction : Prop :=
  ∀ (s : State) (a b : Operand), (peek s).operands = [a, b] →
    (decoded a b s.advancePc).pc = s.pc + BitVec.ofNat 16 (lengthOf (s.cell s.pc)) ∧
    (a = .pc → valA a b s.advancePc = s.pc + BitVec.ofNat 16 (lengthOf (s.cell s.pc))) ∧
    (b = .pc → valB a b s.advancePc = s.pc + BitVec.ofNat 16 (lengthOf (s.cell s.pc)))

/-- 40_operands.md R135: reading a resolved operand returns the current content of its slot. -/
def Obligations.ReadReturnsTheCurrentContent : Prop :=
  ∀ (s : State) (v k : Word) (r : Reg),
    readLoc (.imm v) s = v ∧ readLoc (.reg r) s = readReg s.regs r ∧ readLoc (.spec .pc) s = s.pc ∧ readLoc (.spec .sp) s = s.sp ∧
      readLoc (.spec .ov) s = s.ov ∧ readLoc (.mem k) s = readMem s.mem k

/-- 40_operands.md R136, R137: a write through an assignable operand stores into its slot, which reads back the word
written, and leaves every other slot and the diagnostic outputs alone; a write through an immediate changes no slot and
sets `diag_literal_write` (the form of that output is the spec's decision D10; notes/assumptions/10.md). -/
def Obligations.WriteChangesItsSlotOnly : Prop :=
  ∀ (loc : Resolved) (v : Word) (s : State),
    (assignable loc = true → readLoc loc (writeLoc loc v s) = v ∧ (writeLoc loc v s).diag = s.diag) ∧
    (∀ other : Resolved, other ≠ loc → readLoc other (writeLoc loc v s) = readLoc other s) ∧
    ((∃ u, loc = .imm u) ↔ assignable loc = false) ∧
    (assignable loc = false → writeLoc loc v s = s.signalLiteralWrite)

/-- 40_operands.md R138: the resolver's corner cases, for every state. The rows that have no net change rest on memory
being in canonical form, since they write a cell's own word back (notes/assumptions/1.md). -/
def Obligations.StackOperandCornerCases : Prop :=
  ∀ s : State,
    (s.Inv → exec (.set .push .pop) s = .next s ∧ exec (.set .pop .push) s = .next s) ∧
    exec (.set .push .sp) s = .next ((s.setSp (s.sp - 1)).setCell (s.sp - 1) (s.sp - 1)) ∧
    exec (.set .sp .pop) s = .next (s.setSp (s.cell s.sp)) ∧
    exec (.set .peek .push) s = .next ((s.setSp (s.sp - 1)).setCell s.sp (s.cell (s.sp - 1))) ∧
    exec (.set .sp .push) s = .next (s.setSp (s.cell (s.sp - 1))) ∧
    (s.reg .a = 2 → exec (.set (.indOff 0xFFFF .a) (.lit 1)) s = .next ((s.setPc (s.pc + 1)).setCell 0x0001 1)) ∧
    exec (.set (.lit 5) (.reg .a)) s = .next s.signalLiteralWrite

/-! ### The step (41_execution.md) -/

/-- 41_execution.md R150, R151: when the words from `pc` on are those of a well-formed instruction `i`, a step clears the
diagnostic outputs, moves `pc` past the instruction word and executes `i`. -/
def Obligations.StepExecutesTheDecodedInstruction : Prop :=
  ∀ (s : State) (i : Instr), i.wellFormed = true →
    (∀ k < (encode i).length, s.cell (s.pc + BitVec.ofNat 16 k) = (encode i).getD k 0) →
    peek s = i ∧ step s = exec i (s.clearDiag.setPc (s.pc + 1))

/-- 41_execution.md R150–R158, 45_extended.md R250, R251: the machine, which decodes an instruction with its extra words and
then executes it, does in every state what the spec's pseudocode does, which takes each word from memory by `NextWord()`
when it needs it. The order of accesses is the spec's decision D11 (notes/assumptions/11.md), the policy `nop` D9 (3.md). -/
def Obligations.StepFollowsThePseudocode : Prop :=
  ∀ s : State, step s = .next (pseudoStep s)

/-- 41_execution.md R162: a step is defined for every state. Under the policy `nop` (92_eei_decisions.md D9;
notes/assumptions/3.md). -/
def Obligations.EveryStepCompletes : Prop :=
  ∀ s : State, Completes s

/-- 41_execution.md R163, which the spec marks as derived: where `pc` is after a step. What a skip over an unknown
selector decodes is the spec's decision D9 (notes/assumptions/12.md). -/
def Obligations.ProgramCounterAfterAStep : Prop :=
  ∀ s : State, ∃ t, step s = .next t ∧
    let i := peek s
    let p := s.pc + BitVec.ofNat 16 (lengthOf (s.cell s.pc))
    (∀ a b, i.writesBack = some (a, b) → a ≠ .pc → t.pc = p) ∧
    (∀ b, i.writesBack = some (.pc, b) →
      some t.pc.toNat =
        (pseudoCompute i.opcode.toNat (valA .pc b s.advancePc).toNat (valB .pc b s.advancePc).toNat).1) ∧
    (∀ a b cond, i.condition = some (a, b, cond) →
      t.pc = if cond (valA a b s.advancePc) (valB a b s.advancePc) then p
        else p + BitVec.ofNat 16 (lengthOf (s.cell p))) ∧
    (∀ b, i = .jsr b → t.pc = readLoc (resolve b s.advancePc).1 (resolve b s.advancePc).2) ∧
    (i.isUnknownExt = true → t.pc = p)

/-- 41_execution.md R159: the skip-decoder advances `pc` by exactly `L(w)`, and so does a full execution before any write to
`pc`: `pc` is `p + L(w)` in the state in which the instruction reads its operands, after both decodes in the basic format and
after the one in the extended format. Where the instruction does not write `pc` (it writes back elsewhere, or it is a
conditional that holds), `pc` is there after its execution. -/
def Obligations.SkipConsumesTheInstructionsWords : Prop :=
  ∀ s : State,
    let i := peek s
    let next := s.pc + BitVec.ofNat 16 (lengthOf (s.cell s.pc))
    (skipInstruction s).pc = next ∧
    (∀ a b, i.operands = [a, b] → (decoded a b s.advancePc).pc = next) ∧
    (∀ b, i.operands = [b] → (resolve b s.advancePc).2.pc = next) ∧
    (∀ a b, i.writesBack = some (a, b) → a ≠ .pc → ∃ t, exec i s.advancePc = .next t ∧ t.pc = next) ∧
    (∀ a b cond, i.condition = some (a, b, cond) → cond (valA a b s.advancePc) (valB a b s.advancePc) = true →
      ∃ t, exec i s.advancePc = .next t ∧ t.pc = next) ∧
    (encode i).length = lengthOf (s.cell s.pc)

/-- 41_execution.md R158, R160: a skipped instruction changes `sp` by its POP and PUSH codes, once each, and otherwise only
`pc`; its A code counts only in the basic format. That an unknown selector is skipped as JSR is the spec's decision D9
(notes/assumptions/12.md). -/
def Obligations.SkipAppliesOnlyTheStackSideEffects : Prop :=
  ∀ s : State,
    (skipInstruction s).sp = s.sp + skipStackEffect (s.cell s.pc) ∧ (skipInstruction s).ov = s.ov ∧
      (skipInstruction s).regs = s.regs ∧ (skipInstruction s).mem = s.mem ∧ (skipInstruction s).diag = s.diag

/-- 41_execution.md R161: a false conditional passes over exactly one instruction, within its own step; when that one
is a conditional too, its condition is not evaluated, whatever it is. What a skip over an unknown selector decodes is
the spec's decision D9 (notes/assumptions/12.md). -/
def Obligations.SkippedConditionalIsNotEvaluated : Prop :=
  ∀ (s : State) (a b a' b' : Operand) (cond cond' : Word → Word → Bool),
    (peek s).condition = some (a, b, cond) →
    cond (valA a b s.advancePc) (valB a b s.advancePc) = false →
    (peek (decoded a b s.advancePc)).condition = some (a', b', cond') →
    ∃ t, step s = .next t ∧
      t.pc = s.pc + BitVec.ofNat 16 (lengthOf (s.cell s.pc)) +
        BitVec.ofNat 16 (lengthOf (s.cell (s.pc + BitVec.ofNat 16 (lengthOf (s.cell s.pc))))) ∧
      t.sp = s.sp + a.spChange + b.spChange + a'.spChange + b'.spChange

/-! ### SET, arithmetic and shifts (42_set_arith.md) -/

/-- 42_set_arith.md R180. That `ov` keeps its value is the spec's decision D4 (notes/assumptions/6.md). The opcode id
is the spec's decision D3 (notes/assumptions/5.md). -/
def Obligations.SetCopiesBIntoA : Prop :=
  ∀ (a b : Operand) (s : State),
    exec (.set a b) s = .next (resultWritten a b s (valB a b s).toNat) ∧ EncodedAs (.set a b) 0x1 a b

/-- 42_set_arith.md R181: ADD writes the sum modulo 65536, then `ov` takes 1 if the unwrapped sum exceeds 65535, else
0. The opcode id is the spec's decision D3 (notes/assumptions/5.md). With A = O the order of the two writes is D5
(7.md), and with a literal A that `ov` is still written is D10 (10.md). -/
def Obligations.AddWritesSumAndCarry : Prop :=
  ∀ (a b : Operand) (s : State),
    let va := (valA a b s).toNat
    let vb := (valB a b s).toNat
    exec (.add a b) s = .next (resultAndOv a b s ((va + vb) % 65536) (if va + vb > 65535 then 1 else 0)) ∧
      EncodedAs (.add a b) 0x2 a b

/-- 42_set_arith.md R182: SUB writes the difference modulo 65536, then `ov` takes 0xFFFF on a borrow, else 0. The
opcode id is the spec's decision D3 (notes/assumptions/5.md). With A = O the order of the two writes is D5 (7.md), and
with a literal A that `ov` is still written is D10 (10.md). -/
def Obligations.SubWritesDifferenceAndBorrow : Prop :=
  ∀ (a b : Operand) (s : State),
    let va := (valA a b s).toNat
    let vb := (valB a b s).toNat
    exec (.sub a b) s =
        .next (if va < vb then resultAndOv a b s (va + 65536 - vb) 0xFFFF else resultAndOv a b s (va - vb) 0) ∧
      EncodedAs (.sub a b) 0x3 a b

/-- 42_set_arith.md R183: MUL writes the low 16 bits of the exact product, then `ov` takes the high 16 bits. The
opcode id is the spec's decision D3 (notes/assumptions/5.md). With A = O the order of the two writes is D5 (7.md), and
with a literal A that `ov` is still written is D10 (10.md). -/
def Obligations.MulWritesLowAndHighHalf : Prop :=
  ∀ (a b : Operand) (s : State),
    let va := (valA a b s).toNat
    let vb := (valB a b s).toNat
    exec (.mul a b) s = .next (resultAndOv a b s (va * vb % 65536) (va * vb / 65536)) ∧ EncodedAs (.mul a b) 0x4 a b

/-- 42_set_arith.md R184: DIV writes the quotient, then `ov` takes the low 16 bits of `va * 2^16 div vb`; by zero,
both are 0. The opcode id is the spec's decision D3 (notes/assumptions/5.md). With A = O the order of the two writes
is D5 (7.md), and with a literal A that `ov` is still written is D10 (10.md). -/
def Obligations.DivWritesQuotientAndFraction : Prop :=
  ∀ (a b : Operand) (s : State),
    let va := (valA a b s).toNat
    let vb := (valB a b s).toNat
    exec (.div a b) s =
        .next (if vb = 0 then resultAndOv a b s 0 0 else resultAndOv a b s (va / vb) (va * 65536 / vb % 65536)) ∧
      EncodedAs (.div a b) 0x5 a b

/-- 42_set_arith.md R185: MOD writes the remainder, or 0 when B is 0. That `ov` keeps its value is the spec's decision
D4 (notes/assumptions/6.md). The opcode id is the spec's decision D3 (notes/assumptions/5.md). -/
def Obligations.ModWritesRemainder : Prop :=
  ∀ (a b : Operand) (s : State),
    let va := (valA a b s).toNat
    let vb := (valB a b s).toNat
    exec (.mod a b) s = .next (resultWritten a b s (if vb = 0 then 0 else va % vb)) ∧ EncodedAs (.mod a b) 0x6 a b

/-- 42_set_arith.md R186, its equivalent form by the range of the shift amount. The results from 16 on are the spec's
decision D6 (notes/assumptions/8.md). The opcode id is the spec's decision D3 (notes/assumptions/5.md). With A = O the
order of the two writes is D5 (7.md), and with a literal A that `ov` is still written is D10 (10.md). -/
def Obligations.ShlWritesShiftAndBitsOut : Prop :=
  ∀ (a b : Operand) (s : State),
    let va := (valA a b s).toNat
    let vb := (valB a b s).toNat
    exec (.shl a b) s =
        .next (if vb = 0 then resultAndOv a b s va 0
          else if vb ≤ 15 then resultAndOv a b s (va * 2 ^ vb % 65536) (va / 2 ^ (16 - vb))
          else if vb ≤ 31 then resultAndOv a b s 0 (va * 2 ^ (vb - 16) % 65536)
          else resultAndOv a b s 0 0) ∧
      EncodedAs (.shl a b) 0x7 a b

/-- 42_set_arith.md R187, its equivalent form by the range of the shift amount. The results from 16 on are the spec's
decision D6 (notes/assumptions/8.md). The opcode id is the spec's decision D3 (notes/assumptions/5.md). With A = O the
order of the two writes is D5 (7.md), and with a literal A that `ov` is still written is D10 (10.md). -/
def Obligations.ShrWritesShiftAndBitsOut : Prop :=
  ∀ (a b : Operand) (s : State),
    let va := (valA a b s).toNat
    let vb := (valB a b s).toNat
    exec (.shr a b) s =
        .next (if vb = 0 then resultAndOv a b s va 0
          else if vb ≤ 15 then resultAndOv a b s (va / 2 ^ vb) (va * 2 ^ (16 - vb) % 65536)
          else if vb ≤ 31 then resultAndOv a b s 0 (va / 2 ^ (vb - 16))
          else resultAndOv a b s 0 0) ∧
      EncodedAs (.shr a b) 0x8 a b

/-- 42_set_arith.md R181–R184, R186, R187 with 41_execution.md R157: with A = O, the value left in `ov` is the overflow
value and not the result. The order behind it is the spec's decision D5 (notes/assumptions/7.md). -/
def Obligations.OverflowValueWinsWhenDestinationIsO : Prop :=
  ∀ (i : Instr) (b : Operand) (s : State), i.updatesOv = true → i.writesBack = some (.o, b) →
    ∃ t, exec i s = .next t ∧ t.regs = s.regs ∧ t.mem = s.mem ∧ t.diag = s.diag ∧ t.pc = (decoded .o b s).pc ∧
      t.sp = (decoded .o b s).sp ∧
      some t.ov.toNat = (pseudoCompute i.opcode.toNat s.ov.toNat (valB .o b s).toNat).2.1

/-! ### Bitwise (43_bitwise.md) -/

/-- 43_bitwise.md R210, R211, R212: bit by bit, and through A; `ov` changes only if it is A. The opcode id is the
spec's decision D3 (notes/assumptions/5.md). -/
def Obligations.BitwiseOpcodesWriteThroughA : Prop :=
  ∀ (a b : Operand) (s : State),
    (∃ v : Word, exec (.and a b) s = .next (resultWritten a b s v.toNat) ∧
      ∀ k : Nat, v.getLsbD k = ((valA a b s).getLsbD k && (valB a b s).getLsbD k)) ∧
    (∃ v : Word, exec (.bor a b) s = .next (resultWritten a b s v.toNat) ∧
      ∀ k : Nat, v.getLsbD k = ((valA a b s).getLsbD k || (valB a b s).getLsbD k)) ∧
    (∃ v : Word, exec (.xor a b) s = .next (resultWritten a b s v.toNat) ∧
      ∀ k : Nat, v.getLsbD k = ((valA a b s).getLsbD k != (valB a b s).getLsbD k)) ∧
    (a ≠ .o → ∀ i ∈ [Instr.and a b, .bor a b, .xor a b], ∃ t, exec i s = .next t ∧ t.ov = s.ov) ∧
    EncodedAs (.and a b) 0x9 a b ∧ EncodedAs (.bor a b) 0xA a b ∧ EncodedAs (.xor a b) 0xB a b

/-! ### Conditionals (44_conditional.md) -/

/-- 44_conditional.md R230: IFE goes on when A equals B and skips the next instruction otherwise. The opcode id is the
spec's decision D3 (notes/assumptions/5.md). What a skip over an unknown selector decodes is the spec's decision D9
(notes/assumptions/12.md). -/
def Obligations.IfeSkipsUnlessEqual : Prop :=
  ∀ (a b : Operand) (s : State),
    exec (.ife a b) s =
        .next (if (valA a b s).toNat = (valB a b s).toNat then decoded a b s else skipped (decoded a b s)) ∧
      EncodedAs (.ife a b) 0xC a b

/-- 44_conditional.md R231: IFN goes on when A differs from B and skips the next instruction otherwise. The opcode id
is the spec's decision D3 (notes/assumptions/5.md). What a skip over an unknown selector decodes is the spec's
decision D9 (notes/assumptions/12.md). -/
def Obligations.IfnSkipsUnlessDifferent : Prop :=
  ∀ (a b : Operand) (s : State),
    exec (.ifn a b) s =
        .next (if (valA a b s).toNat = (valB a b s).toNat then skipped (decoded a b s) else decoded a b s) ∧
      EncodedAs (.ifn a b) 0xD a b

/-- 44_conditional.md R232: IFG goes on when A is greater than B, unsigned, and skips the next instruction otherwise.
The opcode id is the spec's decision D3 (notes/assumptions/5.md). What a skip over an unknown selector decodes is the
spec's decision D9 (notes/assumptions/12.md). -/
def Obligations.IfgSkipsUnlessGreater : Prop :=
  ∀ (a b : Operand) (s : State),
    exec (.ifg a b) s =
        .next (if (valA a b s).toNat ≤ (valB a b s).toNat then skipped (decoded a b s) else decoded a b s) ∧
      EncodedAs (.ifg a b) 0xE a b

/-- 44_conditional.md R233: IFB goes on when A and B have a set bit in common and skips the next instruction
otherwise. The opcode id is the spec's decision D3 (notes/assumptions/5.md). What a skip over an unknown selector
decodes is the spec's decision D9 (notes/assumptions/12.md). -/
def Obligations.IfbSkipsUnlessCommonBit : Prop :=
  ∀ (a b : Operand) (s : State),
    ((∃ k < 16, (valA a b s).getLsbD k = true ∧ (valB a b s).getLsbD k = true) →
      exec (.ifb a b) s = .next (decoded a b s)) ∧
    ((∀ k < 16, ¬((valA a b s).getLsbD k = true ∧ (valB a b s).getLsbD k = true)) →
      exec (.ifb a b) s = .next (skipped (decoded a b s))) ∧
    EncodedAs (.ifb a b) 0xF a b

/-- 44_conditional.md R234: what the four conditionals share. Both operands are resolved, A then B; nothing is written
and no diagnostic output set; the step's `pc` and `sp` are those after the two decodes if the condition is true, and
those after the skip if it is false. What a skip over an unknown selector decodes is the spec's decision D9
(notes/assumptions/12.md). -/
def Obligations.ConditionalsWriteNothing : Prop :=
  ∀ (i : Instr) (a b : Operand) (cond : Word → Word → Bool) (s : State), i.condition = some (a, b, cond) →
    ∃ t, exec i s = .next t ∧
      (∀ r, t.reg r = s.reg r) ∧ t.ov = s.ov ∧ (∀ q, t.cell q = s.cell q) ∧ t.diag = s.diag ∧
      decoded a b s = (resolve b (resolve a s).2).2 ∧
      (cond (valA a b s) (valB a b s) = true →
        t.pc = (decoded a b s).pc ∧ t.sp = s.sp + a.spChange + b.spChange) ∧
      (cond (valA a b s) (valB a b s) = false →
        t.pc = (skipped (decoded a b s)).pc ∧ t.sp = (skipped (decoded a b s)).sp)

/-! ### The extended form (45_extended.md) -/

/-- 45_extended.md R250: JSR reads its target, pushes the address of the next instruction and jumps. The return address is
the spec's decision D7 and the read before the push D8 (notes/assumptions/9.md). -/
def Obligations.JsrPushesReturnAddressAndJumps : Prop :=
  ∀ (b : Operand) (s : State),
    let d := (resolve b s).2
    exec (.jsr b) s = .next (((d.setSp (d.sp - 1)).setCell (d.sp - 1) d.pc).setPc (readLoc (resolve b s).1 d)) ∧
      d.pc = s.pc + BitVec.ofNat 16 b.words.length ∧ (Instr.jsr b).firstWord.toNat = b.code.toNat * 1024 + 16

/-- What JSR leaves alone (45_extended.md R250): every general register, `ov`, the diagnostic outputs, and every cell but
the one it pushes to, which is the cell below the stack pointer its operand's decode leaves. -/
def Obligations.JsrFrame : Prop :=
  ∀ (b : Operand) (s t : State), exec (.jsr b) s = .next t →
    (∀ r, t.reg r = s.reg r) ∧ t.ov = s.ov ∧ t.diag = s.diag ∧ t.sp = s.sp + b.spChange - 1 ∧
      ∀ q, q ≠ (resolve b s).2.sp - 1 → t.cell q = s.cell q

/-- 45_extended.md R251: under the policy `nop` an unknown extended instruction applies its operand's decode (`pc` past the
extra word, the side effect on `sp`), sets `diag_unknown_ext` and changes nothing else; under `fault` it has no successor
state. The policy is the spec's decision D9 (notes/assumptions/3.md). Selector 0x01 is JSR and makes an ill-formed term, which
the decoder never yields; that it is covered here too is the model's choice (DESIGN CHOICE, notes/assumptions/17.md). -/
def Obligations.UnknownExtendedOnlyDecodesItsOperand : Prop :=
  ∀ (sel : BitVec 6) (b : Operand) (s : State),
    (∃ t, exec (.unknownExt sel b) s = .next t ∧ unknownExtUnder .nop b s = .next t ∧
      t.pc = s.pc + BitVec.ofNat 16 b.words.length ∧ t.sp = s.sp + b.spChange ∧ t.ov = s.ov ∧ t.regs = s.regs ∧
      t.mem = s.mem ∧ t.diag.unknownExt = true ∧ t.diag.literalWrite = s.diag.literalWrite) ∧
    unknownExtUnder .fault b s = .fault .stuckUnknownExt

/-- 00_scope.md R7, 41_execution.md R162, 45_extended.md R251: `UNKNOWN_EXT_POLICY` decides what a step does at an unknown
extended instruction, and nothing else. Under `nop`, the configured policy of `step`, every step completes; under `fault` the
step at such an instruction has no successor state, and only that one. The policy is the spec's decision D9
(notes/assumptions/3.md). -/
def Obligations.PolicyDecidesOnlyUnknownExtended : Prop :=
  ∀ s : State,
    (∀ policy, (peek s).isUnknownExt = false → stepUnder policy s = step s ∧ ∃ t, stepUnder policy s = .next t) ∧
    stepUnder .nop s = step s ∧ (∃ t, stepUnder .nop s = .next t) ∧
    ((peek s).isUnknownExt = true ↔ stepUnder .fault s = .fault .stuckUnknownExt)

/-- 70_reset_and_hazards.md R311 with the parameters of 00_scope.md R7: a run starts at `reset(image)`, its next state is
the step of the last one, and it ends only under `fault`, at the first state whose instruction is an unknown extended one;
until then the two policies give the same run. The observation after `n` steps is the spec's decision D14, the policy D9
(notes/assumptions/3.md, 13.md). -/
def Obligations.RunEndsOnlyAtAnUnknownWordUnderFault : Prop :=
  (∀ (policy : Config.UnknownExtPolicy) (image : List Word) (n : Nat) (s : State), resetImage image = some s →
    observe policy image 0 = some (.next s) ∧ observe policy image n = some (runUnder policy n s)) ∧
  ∀ (n : Nat) (s : State),
    (∀ policy t, runUnder policy n s = .next t → runUnder policy (n + 1) s = stepUnder policy t) ∧
    (∃ t, runUnder .nop n s = .next t) ∧
    (runUnder .fault n s = .fault .stuckUnknownExt ↔
      ∃ k < n, ∃ t, runUnder .nop k s = .next t ∧ (peek t).isUnknownExt = true) ∧
    ((∀ k < n, ∀ t, runUnder .nop k s = .next t → (peek t).isUnknownExt = false) →
      runUnder .fault n s = runUnder .nop n s)

/-- 45_extended.md R252, which the spec marks as derived: after a JSR, a `SET PC, POP` that finds `sp` and the top of the
stack as JSR left them returns to the instruction after the JSR and gives `sp` back. -/
def Obligations.ReturnComesBackAfterTheJsr : Prop :=
  ∀ (s t u : State) (b : Operand), peek s = .jsr b → step s = .next t →
    peek u = .set .pc .pop → u.sp = t.sp → u.cell t.sp = t.cell t.sp →
    ∃ v, step u = .next v ∧ v.pc = s.pc + BitVec.ofNat 16 (lengthOf (s.cell s.pc)) ∧ v.sp = s.sp + b.spChange

/-! ### What an instruction leaves alone -/

/-- The frame of SET, ADD, SUB, MUL, DIV, MOD, SHL, SHR, AND, BOR and XOR (41_execution.md R153, R154): only A's slot,
`pc`, the `sp` side effects of the two codes, `ov` for the six that update it, and `diag_literal_write` for a literal
A. The cell stored to is the one A's resolution names. That SET and MOD leave `ov` alone is the spec's decision D4
(notes/assumptions/6.md). -/
def Obligations.WriteBackFrame : Prop :=
  ∀ (i : Instr) (a b : Operand) (s t : State), i.writesBack = some (a, b) → exec i s = .next t →
    (∀ r, a ≠ .reg r → t.reg r = s.reg r) ∧
    (a ≠ .sp → t.sp = s.sp + a.spChange + b.spChange) ∧
    (a ≠ .o → i.updatesOv = false → t.ov = s.ov) ∧
    (∀ k, (resolve a s).1 = .mem k → ∀ q, q ≠ k → t.cell q = s.cell q) ∧
    ((∀ k, (resolve a s).1 ≠ .mem k) → ∀ q, t.cell q = s.cell q) ∧
    t.diag = { s.diag with literalWrite := s.diag.literalWrite || a.isLiteral }

/-- 10_state.md R32, R37 and 20_memory.md R74 over a whole step: a general register changes only as destination A;
`ov` only as destination A or by the six opcodes that update it; a memory cell only as the cell A names or as the cell
JSR pushes to. That SET and MOD leave `ov` alone is the spec's decision D4 (notes/assumptions/6.md). -/
def Obligations.StepChangesOnlyWhatItsInstructionNames : Prop :=
  ∀ s t : State, step s = .next t →
    (∀ r, t.reg r ≠ s.reg r → ∃ b, (peek s).writesBack = some (.reg r, b)) ∧
    (t.ov ≠ s.ov → (peek s).updatesOv = true ∨ ∃ b, (peek s).writesBack = some (.o, b)) ∧
    (∀ q, t.cell q ≠ s.cell q →
      (∃ a b, (peek s).writesBack = some (a, b) ∧ (resolve a s.advancePc).1 = .mem q) ∨
      ∃ b, peek s = .jsr b ∧ q = s.sp + b.spChange - 1)

/-! ### Memory, reset and the invariant -/

/-- The model's invariant (notes/assumptions/1.md): every step keeps memory in canonical form, from every state in which it
is. The addresses stay within the array of 10_state.md R41. -/
def Obligations.StepKeepsMemoryCanonical : Prop :=
  ∀ s t : State, s.Inv → step s = .next t → t.Inv

/-- The reset state meets the invariant, and so does every state `reset(image)` creates (notes/assumptions/1.md). -/
def Obligations.ResetMemoryIsCanonical : Prop :=
  State.reset.Inv ∧ ∀ (image : List Word) (s : State), resetImage image = some s → s.Inv

/-- 10_state.md R43, R45, R46, R47: what `reset(image)` leaves in every field. -/
def Obligations.ResetGivesEveryFieldItsValue : Prop :=
  ∀ image : List Word, image.length ≤ 65536 →
    ∃ s, resetImage image = some s ∧ s.pc = 0x0000 ∧ s.sp = 0xFFFF ∧ s.ov = 0x0000 ∧ (∀ r, s.reg r = 0x0000) ∧
      (∀ k (h : k < image.length), s.cell (BitVec.ofNat 16 k) = image[k]) ∧
      (∀ a : Word, image.length ≤ a.toNat → s.cell a = 0x0000) ∧
      s.diag.literalWrite = false ∧ s.diag.unknownExt = false

/-- 70_reset_and_hazards.md R304: an image of more than 65536 words is refused (the spec's decision D13;
notes/assumptions/2.md); the empty image is allowed and gives `State.reset`, whose memory is all zero. -/
def Obligations.OversizedImageIsRefused : Prop :=
  (∀ image : List Word, 65536 < image.length → resetImage image = none) ∧
  resetImage [] = some State.reset ∧ ∀ a, State.reset.cell a = 0x0000

/-- 10_state.md R44, 70_reset_and_hazards.md R302 (passages the spec marks as derived): the first push after reset, by the
operand PUSH (`SET PUSH, v` is 0x7DA1 v) or by JSR (`JSR v` is 0x7C10 v), writes `M[0xFFFE]`. -/
def Obligations.FirstPushAfterResetWritesFFFE : Prop :=
  ∀ (rest : List Word) (s : State) (v : Word),
    (resetImage (0x7DA1 :: v :: rest) = some s →
      ∃ t, step s = .next t ∧ t.sp = 0xFFFE ∧ t.cell 0xFFFE = v ∧ t.pc = 0x0002) ∧
    (resetImage (0x7C10 :: v :: rest) = some s →
      ∃ t, step s = .next t ∧ t.sp = 0xFFFE ∧ t.cell 0xFFFE = 0x0002 ∧ t.pc = v)

/-- 20_memory.md R71: a read returns the word of the most recent write to that cell; here a store by one instruction and a
load by the next, through the same address. The order is the spec's decision D11. -/
def Obligations.LoadReturnsTheWordStored : Prop :=
  ∀ (s t : State) (n v : Word) (r : Reg), exec (.set (.abs n) (.next v)) s = .next t →
    ∃ u, exec (.set (.reg r) (.abs n)) t = .next u ∧ u.reg r = v ∧ ∀ q, q ≠ n → u.cell q = s.cell q

/-- 20_memory.md R74, 70_reset_and_hazards.md R307 (marked derived in the spec): a store to the words of the next
instruction is seen by its fetch, with nothing in between. -/
def Obligations.StoreToTheNextInstructionIsFetched : Prop :=
  ∀ (s t : State) (v : Word), peek s = .set (.abs (s.pc + 3)) (.next v) → step s = .next t →
    t.pc = s.pc + 3 ∧ peek t = decode v (s.cell (s.pc + 4)) (s.cell (s.pc + 5))

/-! ### The diagnostic outputs (60_exceptions.md) -/

/-- 60_exceptions.md R271: when each output is set by a step; at most one is. The outputs' form is the spec's decision D10
(notes/assumptions/4.md, 10.md). -/
def Obligations.DiagnosticOutputsOfAStep : Prop :=
  ∀ s t : State, step s = .next t →
    (t.diag.literalWrite = true ↔ ∃ a b, (peek s).writesBack = some (a, b) ∧ a.isLiteral = true) ∧
    (t.diag.unknownExt = true ↔ (peek s).isUnknownExt = true) ∧
    ¬(t.diag.literalWrite = true ∧ t.diag.unknownExt = true)

/-- 10_state.md R42: the next step does not depend on the diagnostic outputs, which stand in the model's state by its own
choice (notes/assumptions/4.md). -/
def Obligations.StepIgnoresTheDiagnosticOutputs : Prop :=
  ∀ (s : State) (d : Diag), step { s with diag := d } = step s ∧ peek { s with diag := d } = peek s
end

