-- ==== Sys2Proof/Laws/Decode.lean ====
section
/-!
SUPPORT. The small lemmas of the decoder and the encoder: registers, operand codes and the fields of an instruction word
go back and forth.
-/

namespace Sys2Proof

/-! ### Registers -/

@[simp] theorem Reg.ofIndex_index (r : Reg) : Reg.ofIndex r.index = r := by cases r <;> rfl

@[simp] theorem Reg.index_ofIndex (n : BitVec 3) : (Reg.ofIndex n).index = n := by
  revert n; decide

/-! ### Operand codes -/

theorem code_low_bits (p r : BitVec 3) : (p ++ r : BitVec 6).extractLsb' 0 3 = r := by
  revert p r; decide

theorem code_toNat (p r : BitVec 3) : (p ++ r : BitVec 6).toNat = 8 * p.toNat + r.toNat := by
  revert p r; decide

theorem lit_low_bits (v : BitVec 5) : (0b1#1 ++ v : BitVec 6).extractLsb' 0 5 = v := by
  revert v; decide

theorem lit_toNat (v : BitVec 5) : (0b1#1 ++ v : BitVec 6).toNat = 32 + v.toNat := by
  revert v; decide

/-- The code of an operand decodes to it, when its extra word (if it has one) is the next word of the stream. -/
theorem decodeOperand_code (opd : Operand) (n : Word) : decodeOperand opd.code (opd.words.getD 0 n) = opd := by
  cases opd with
  | reg r => cases r <;> rfl
  | ind r => cases r <;> rfl
  | indOff m r =>
    have h := code_toNat 0b010#3 r.index
    have := r.index.isLt
    simp only [BitVec.reduceToNat] at h
    rw [Operand.words, List.getD_cons_zero, Operand.code, decodeOperand]
    simp only [code_low_bits, Reg.ofIndex_index]
    rw [if_neg (by omega), if_neg (by omega), if_pos (by omega)]
  | abs m => rw [Operand.words, List.getD_cons_zero]; rfl
  | next m => rw [Operand.words, List.getD_cons_zero]; rfl
  | lit v =>
    have h : 32 ≤ (0b1#1 ++ v : BitVec 6).toNat := by rw [lit_toNat]; omega
    simp only [Operand.code, decodeOperand, lit_low_bits]
    repeat rw [if_neg (by omega)]
  | _ => rfl

/-- Every code is the code of the operand it decodes to. -/
theorem code_decodeOperand (c : BitVec 6) (n : Word) : (decodeOperand c n).code = c := by
  revert c
  unfold decodeOperand
  intro c
  have hc : c = BitVec.ofFin c.toFin := rfl
  revert hc
  generalize c.toFin = f
  intro hc
  subst hc
  fin_cases f <;> rfl

/-- The extra word of an operand is there exactly when its code takes one. -/
theorem words_decodeOperand (c : BitVec 6) (n : Word) :
    (decodeOperand c n).words = if codeTakesWord c then [n] else [] := by
  have hc : c = BitVec.ofFin c.toFin := rfl
  revert hc
  generalize c.toFin = f
  intro hc
  subst hc
  fin_cases f <;> rfl

@[simp] theorem extraWords_code (opd : Operand) : extraWords opd.code = opd.words.length := by
  cases opd with
  | reg r => cases r <;> rfl
  | ind r => cases r <;> rfl
  | indOff m r => cases r <;> rfl
  | lit v =>
    have h := lit_toNat v
    have : codeTakesWord (0b1#1 ++ v) = false := by simp [codeTakesWord, h]; omega
    simp [Operand.code, extraWords, this, Operand.words]
  | _ => rfl

theorem codeTakesWord_code (opd : Operand) : codeTakesWord opd.code = decide (opd.words.length = 1) := by
  have h := extraWords_code opd
  unfold extraWords at h
  split at h <;> simp_all
  omega

theorem words_length_le (opd : Operand) : opd.words.length ≤ 1 := by cases opd <;> simp [Operand.words]

/-- An operand's words and the rest of the stream: the first word is the extra word, if there is one. -/
theorem getD_words_append (opd : Operand) (rest : List Word) :
    opd.words.getD 0 ((opd.words ++ rest).getD 0 0) = (opd.words ++ rest).getD 0 0 := by
  cases opd <;> simp [Operand.words]

/-! ### The fields of an instruction word -/

theorem packWord_toNat (b a : BitVec 6) (op : BitVec 4) :
    (packWord b a op).toNat = b.toNat * 1024 + a.toNat * 16 + op.toNat := by
  unfold packWord
  rw [BitVec.toNat_append, BitVec.toNat_append, ← Nat.shiftLeft_add_eq_or_of_lt op.isLt,
    ← Nat.shiftLeft_add_eq_or_of_lt (a := b.toNat) a.isLt, Nat.shiftLeft_eq, Nat.shiftLeft_eq]
  ring

theorem opField_toNat (w : Word) : (opField w).toNat = w.toNat % 16 := by
  simp [opField, BitVec.extractLsb'_toNat]

theorem aField_toNat (w : Word) : (aField w).toNat = w.toNat / 16 % 64 := by
  simp [aField, BitVec.extractLsb'_toNat, Nat.shiftRight_eq_div_pow]

theorem bField_toNat (w : Word) : (bField w).toNat = w.toNat / 1024 := by
  have := w.isLt
  simp [bField, BitVec.extractLsb'_toNat, Nat.shiftRight_eq_div_pow]
  omega

@[simp] theorem opField_packWord (b a : BitVec 6) (op : BitVec 4) : opField (packWord b a op) = op := by
  apply BitVec.eq_of_toNat_eq
  have := op.isLt
  rw [opField_toNat, packWord_toNat]
  omega

@[simp] theorem aField_packWord (b a : BitVec 6) (op : BitVec 4) : aField (packWord b a op) = a := by
  apply BitVec.eq_of_toNat_eq
  have := op.isLt
  have := a.isLt
  rw [aField_toNat, packWord_toNat]
  omega

@[simp] theorem bField_packWord (b a : BitVec 6) (op : BitVec 4) : bField (packWord b a op) = b := by
  apply BitVec.eq_of_toNat_eq
  have := op.isLt
  have := a.isLt
  rw [bField_toNat, packWord_toNat]
  omega

/-- A word is its three fields side by side. -/
@[simp] theorem packWord_fields (w : Word) : packWord (bField w) (aField w) (opField w) = w := by
  apply BitVec.eq_of_toNat_eq
  rw [packWord_toNat, opField_toNat, aField_toNat, bField_toNat]
  omega

end Sys2Proof
end

