-- ==== Sys2Proof/Laws/State.lean ====
section
/-!
SUPPORT. One lemma per field per update of `State`, so that no proof unfolds a record update; and the same for the two
accessors `State.reg` and `State.cell`.
-/

namespace Sys2Proof.Machine

/-! ### `setPc` -/

@[simp] theorem State.setPc_pc (s : State) (v : Word) : (s.setPc v).pc = v := rfl
@[simp] theorem State.setPc_sp (s : State) (v : Word) : (s.setPc v).sp = s.sp := rfl
@[simp] theorem State.setPc_ov (s : State) (v : Word) : (s.setPc v).ov = s.ov := rfl
@[simp] theorem State.setPc_regs (s : State) (v : Word) : (s.setPc v).regs = s.regs := rfl
@[simp] theorem State.setPc_mem (s : State) (v : Word) : (s.setPc v).mem = s.mem := rfl
@[simp] theorem State.setPc_diag (s : State) (v : Word) : (s.setPc v).diag = s.diag := rfl
@[simp] theorem State.setPc_reg (s : State) (v : Word) (q : Reg) : (s.setPc v).reg q = s.reg q := rfl
@[simp] theorem State.setPc_cell (s : State) (v : Word) (k : Word) : (s.setPc v).cell k = s.cell k := rfl

/-! ### `setSp` -/

@[simp] theorem State.setSp_pc (s : State) (v : Word) : (s.setSp v).pc = s.pc := rfl
@[simp] theorem State.setSp_sp (s : State) (v : Word) : (s.setSp v).sp = v := rfl
@[simp] theorem State.setSp_ov (s : State) (v : Word) : (s.setSp v).ov = s.ov := rfl
@[simp] theorem State.setSp_regs (s : State) (v : Word) : (s.setSp v).regs = s.regs := rfl
@[simp] theorem State.setSp_mem (s : State) (v : Word) : (s.setSp v).mem = s.mem := rfl
@[simp] theorem State.setSp_diag (s : State) (v : Word) : (s.setSp v).diag = s.diag := rfl
@[simp] theorem State.setSp_reg (s : State) (v : Word) (q : Reg) : (s.setSp v).reg q = s.reg q := rfl
@[simp] theorem State.setSp_cell (s : State) (v : Word) (k : Word) : (s.setSp v).cell k = s.cell k := rfl

/-! ### `setOv` -/

@[simp] theorem State.setOv_pc (s : State) (v : Word) : (s.setOv v).pc = s.pc := rfl
@[simp] theorem State.setOv_sp (s : State) (v : Word) : (s.setOv v).sp = s.sp := rfl
@[simp] theorem State.setOv_ov (s : State) (v : Word) : (s.setOv v).ov = v := rfl
@[simp] theorem State.setOv_regs (s : State) (v : Word) : (s.setOv v).regs = s.regs := rfl
@[simp] theorem State.setOv_mem (s : State) (v : Word) : (s.setOv v).mem = s.mem := rfl
@[simp] theorem State.setOv_diag (s : State) (v : Word) : (s.setOv v).diag = s.diag := rfl
@[simp] theorem State.setOv_reg (s : State) (v : Word) (q : Reg) : (s.setOv v).reg q = s.reg q := rfl
@[simp] theorem State.setOv_cell (s : State) (v : Word) (k : Word) : (s.setOv v).cell k = s.cell k := rfl

/-! ### `setReg` -/

@[simp] theorem State.setReg_pc (s : State) (r : Reg) (v : Word) : (s.setReg r v).pc = s.pc := rfl
@[simp] theorem State.setReg_sp (s : State) (r : Reg) (v : Word) : (s.setReg r v).sp = s.sp := rfl
@[simp] theorem State.setReg_ov (s : State) (r : Reg) (v : Word) : (s.setReg r v).ov = s.ov := rfl
@[simp] theorem State.setReg_regs (s : State) (r : Reg) (v : Word) : (s.setReg r v).regs = writeReg s.regs r v := rfl
@[simp] theorem State.setReg_mem (s : State) (r : Reg) (v : Word) : (s.setReg r v).mem = s.mem := rfl
@[simp] theorem State.setReg_diag (s : State) (r : Reg) (v : Word) : (s.setReg r v).diag = s.diag := rfl
@[simp] theorem State.setReg_cell (s : State) (r : Reg) (v : Word) (k : Word) : (s.setReg r v).cell k = s.cell k := rfl

/-! ### `setCell` -/

@[simp] theorem State.setCell_pc (s : State) (a v : Word) : (s.setCell a v).pc = s.pc := rfl
@[simp] theorem State.setCell_sp (s : State) (a v : Word) : (s.setCell a v).sp = s.sp := rfl
@[simp] theorem State.setCell_ov (s : State) (a v : Word) : (s.setCell a v).ov = s.ov := rfl
@[simp] theorem State.setCell_regs (s : State) (a v : Word) : (s.setCell a v).regs = s.regs := rfl
@[simp] theorem State.setCell_mem (s : State) (a v : Word) : (s.setCell a v).mem = writeMem s.mem a v := rfl
@[simp] theorem State.setCell_diag (s : State) (a v : Word) : (s.setCell a v).diag = s.diag := rfl
@[simp] theorem State.setCell_reg (s : State) (a v : Word) (q : Reg) : (s.setCell a v).reg q = s.reg q := rfl

/-! ### `clearDiag` -/

@[simp] theorem State.clearDiag_pc (s : State) : (s.clearDiag).pc = s.pc := rfl
@[simp] theorem State.clearDiag_sp (s : State) : (s.clearDiag).sp = s.sp := rfl
@[simp] theorem State.clearDiag_ov (s : State) : (s.clearDiag).ov = s.ov := rfl
@[simp] theorem State.clearDiag_regs (s : State) : (s.clearDiag).regs = s.regs := rfl
@[simp] theorem State.clearDiag_mem (s : State) : (s.clearDiag).mem = s.mem := rfl
@[simp] theorem State.clearDiag_diag (s : State) : (s.clearDiag).diag = Diag.clear := rfl
@[simp] theorem State.clearDiag_reg (s : State) (q : Reg) : (s.clearDiag).reg q = s.reg q := rfl
@[simp] theorem State.clearDiag_cell (s : State) (k : Word) : (s.clearDiag).cell k = s.cell k := rfl

/-! ### `signalLiteralWrite` -/

@[simp] theorem State.signalLiteralWrite_pc (s : State) : (s.signalLiteralWrite).pc = s.pc := rfl
@[simp] theorem State.signalLiteralWrite_sp (s : State) : (s.signalLiteralWrite).sp = s.sp := rfl
@[simp] theorem State.signalLiteralWrite_ov (s : State) : (s.signalLiteralWrite).ov = s.ov := rfl
@[simp] theorem State.signalLiteralWrite_regs (s : State) : (s.signalLiteralWrite).regs = s.regs := rfl
@[simp] theorem State.signalLiteralWrite_mem (s : State) : (s.signalLiteralWrite).mem = s.mem := rfl
@[simp] theorem State.signalLiteralWrite_diag (s : State) : (s.signalLiteralWrite).diag = { s.diag with literalWrite := true } := rfl
@[simp] theorem State.signalLiteralWrite_reg (s : State) (q : Reg) : (s.signalLiteralWrite).reg q = s.reg q := rfl
@[simp] theorem State.signalLiteralWrite_cell (s : State) (k : Word) : (s.signalLiteralWrite).cell k = s.cell k := rfl

/-! ### `signalUnknownExt` -/

@[simp] theorem State.signalUnknownExt_pc (s : State) : (s.signalUnknownExt).pc = s.pc := rfl
@[simp] theorem State.signalUnknownExt_sp (s : State) : (s.signalUnknownExt).sp = s.sp := rfl
@[simp] theorem State.signalUnknownExt_ov (s : State) : (s.signalUnknownExt).ov = s.ov := rfl
@[simp] theorem State.signalUnknownExt_regs (s : State) : (s.signalUnknownExt).regs = s.regs := rfl
@[simp] theorem State.signalUnknownExt_mem (s : State) : (s.signalUnknownExt).mem = s.mem := rfl
@[simp] theorem State.signalUnknownExt_diag (s : State) : (s.signalUnknownExt).diag = { s.diag with unknownExt := true } := rfl
@[simp] theorem State.signalUnknownExt_reg (s : State) (q : Reg) : (s.signalUnknownExt).reg q = s.reg q := rfl
@[simp] theorem State.signalUnknownExt_cell (s : State) (k : Word) : (s.signalUnknownExt).cell k = s.cell k := rfl

/-! ### `advancePc` -/

@[simp] theorem State.advancePc_pc (s : State) : (s.advancePc).pc = s.pc + 1 := rfl
@[simp] theorem State.advancePc_sp (s : State) : (s.advancePc).sp = s.sp := rfl
@[simp] theorem State.advancePc_ov (s : State) : (s.advancePc).ov = s.ov := rfl
@[simp] theorem State.advancePc_regs (s : State) : (s.advancePc).regs = s.regs := rfl
@[simp] theorem State.advancePc_mem (s : State) : (s.advancePc).mem = s.mem := rfl
@[simp] theorem State.advancePc_diag (s : State) : (s.advancePc).diag = s.diag := rfl
@[simp] theorem State.advancePc_reg (s : State) (q : Reg) : (s.advancePc).reg q = s.reg q := rfl
@[simp] theorem State.advancePc_cell (s : State) (k : Word) : (s.advancePc).cell k = s.cell k := rfl

/-! ### `lowerSp` -/

@[simp] theorem State.lowerSp_pc (s : State) : (s.lowerSp).pc = s.pc := rfl
@[simp] theorem State.lowerSp_sp (s : State) : (s.lowerSp).sp = s.sp - 1 := rfl
@[simp] theorem State.lowerSp_ov (s : State) : (s.lowerSp).ov = s.ov := rfl
@[simp] theorem State.lowerSp_regs (s : State) : (s.lowerSp).regs = s.regs := rfl
@[simp] theorem State.lowerSp_mem (s : State) : (s.lowerSp).mem = s.mem := rfl
@[simp] theorem State.lowerSp_diag (s : State) : (s.lowerSp).diag = s.diag := rfl
@[simp] theorem State.lowerSp_reg (s : State) (q : Reg) : (s.lowerSp).reg q = s.reg q := rfl
@[simp] theorem State.lowerSp_cell (s : State) (k : Word) : (s.lowerSp).cell k = s.cell k := rfl

/-! ### `raiseSp` -/

@[simp] theorem State.raiseSp_pc (s : State) : (s.raiseSp).pc = s.pc := rfl
@[simp] theorem State.raiseSp_sp (s : State) : (s.raiseSp).sp = s.sp + 1 := rfl
@[simp] theorem State.raiseSp_ov (s : State) : (s.raiseSp).ov = s.ov := rfl
@[simp] theorem State.raiseSp_regs (s : State) : (s.raiseSp).regs = s.regs := rfl
@[simp] theorem State.raiseSp_mem (s : State) : (s.raiseSp).mem = s.mem := rfl
@[simp] theorem State.raiseSp_diag (s : State) : (s.raiseSp).diag = s.diag := rfl
@[simp] theorem State.raiseSp_reg (s : State) (q : Reg) : (s.raiseSp).reg q = s.reg q := rfl
@[simp] theorem State.raiseSp_cell (s : State) (k : Word) : (s.raiseSp).cell k = s.cell k := rfl

/-! ### Registers -/

theorem readReg_writeReg (g : Regs) (r q : Reg) (v : Word) :
    readReg (writeReg g r v) q = if q = r then v else readReg g q := by
  cases r <;> cases q <;> rfl

@[simp] theorem State.setReg_reg (s : State) (r q : Reg) (v : Word) :
    (s.setReg r v).reg q = if q = r then v else s.reg q := readReg_writeReg s.regs r q v

/-- Register files that read alike are equal. -/
theorem Regs.eq_of_readReg {g h : Regs} (e : ∀ r, readReg g r = readReg h r) : g = h := by
  cases g; cases h
  simp only [Regs.mk.injEq]
  exact ⟨e .a, e .b, e .c, e .x, e .y, e .z, e .i, e .j⟩

/-! ### Fetching -/

@[simp] theorem fetch_fst (s : State) : (fetch s).1 = peek s := rfl
@[simp] theorem fetch_snd (s : State) : (fetch s).2 = s.advancePc := rfl
@[simp] theorem nextWord_fst (s : State) : (nextWord s).1 = s.cell s.pc := rfl
@[simp] theorem nextWord_snd (s : State) : (nextWord s).2 = s.advancePc := rfl

/-- Fetching does not depend on the diagnostic outputs. -/
@[simp] theorem peek_clearDiag (s : State) : peek s.clearDiag = peek s := rfl

end Sys2Proof.Machine
end

