-- ==== Sys2Proof/Laws/Memory.lean ====
section
/-!
SUPPORT. The laws of memory: a read after a write, the canonical form is kept by every operation, and memories in
canonical form that read alike are equal.
-/

namespace Sys2Proof.Machine

/-! ### Read after write -/

theorem lookupCell_eraseCell (m : Memory) (k q : Nat) :
    lookupCell (eraseCell m k) q = if q = k then Config.unlistedWord else lookupCell m q := by
  induction m with
  | nil => simp [eraseCell, lookupCell]
  | cons c m ih =>
    rw [eraseCell] at ih ⊢
    by_cases hc : c.1 = k
    · have : (c.1 != k) = false := by simp [hc]
      rw [List.filter_cons_of_neg (by simp [hc]), ih, lookupCell]
      by_cases hq : q = k
      · simp [hq]
      · simp [hq, hc, Ne.symm hq]
    · rw [List.filter_cons_of_pos (by simpa using hc), lookupCell, lookupCell, ih]
      by_cases hcq : c.1 = q
      · have : q ≠ k := fun h => hc (hcq.trans h)
        simp [hcq, this]
      · simp [hcq]

theorem lookupCell_insertCell (m : Memory) (k q : Nat) (v : Word) (h : ∀ c ∈ m, c.1 ≠ k) :
    lookupCell (insertCell m k v) q = if q = k then v else lookupCell m q := by
  induction m with
  | nil => simp [insertCell, lookupCell, eq_comm]
  | cons c m ih =>
    have hc : c.1 ≠ k := h c (by simp)
    have ih := ih fun d hd => h d (by simp [hd])
    rw [insertCell]
    split
    · simp [lookupCell, eq_comm]
    · rw [lookupCell, ih, lookupCell]
      by_cases hcq : c.1 = q
      · have : q ≠ k := fun e => hc (hcq.trans e)
        simp [hcq, this]
      · simp [hcq]

theorem eraseCell_ne {m : Memory} {k : Nat} : ∀ c ∈ eraseCell m k, c.1 ≠ k := by
  intro c hc
  simpa using (List.mem_filter.mp hc).2

/-- A read after a write: the written cell holds the word written, every other cell is as before
(20_memory.md R64, R71). -/
theorem readMem_writeMem (m : Memory) (a b v : Word) :
    readMem (writeMem m a v) b = if b = a then v else readMem m b := by
  have hab : b.toNat = a.toNat ↔ b = a := ⟨BitVec.eq_of_toNat_eq, congrArg _⟩
  unfold readMem writeMem
  split
  · next hv => simp only [lookupCell_eraseCell, hab, hv]
  · rw [lookupCell_insertCell _ _ _ _ eraseCell_ne, lookupCell_eraseCell]
    simp only [hab]
    split <;> rfl

@[simp] theorem State.setCell_cell (s : State) (a v b : Word) :
    (s.setCell a v).cell b = if b = a then v else s.cell b := readMem_writeMem s.mem a b v

@[simp] theorem readMem_nil (a : Word) : readMem [] a = 0 := rfl

/-! ### The canonical form -/

theorem Memory.rising_iff (m : Memory) : m.rising = true ↔ m.Pairwise (·.1 < ·.1) := by
  induction m with
  | nil => simp [Memory.rising]
  | cons c m ih =>
    cases m with
    | nil => simp [Memory.rising]
    | cons d m =>
      rw [Memory.rising, Bool.and_eq_true, decide_eq_true_eq, ih, List.pairwise_cons (a := c)]
      refine and_congr_left fun hp => ?_
      refine ⟨fun h e he => ?_, fun h => h d (by simp)⟩
      rcases List.mem_cons.mp he with rfl | he
      · exact h
      · exact h.trans ((List.pairwise_cons.mp hp).1 e he)

/-- The canonical form, as facts about the cells. -/
theorem Memory.wf_iff (m : Memory) : m.wf = true ↔
    m.Pairwise (·.1 < ·.1) ∧ ∀ c ∈ m, c.1 < Config.memWords ∧ c.2 ≠ Config.unlistedWord := by
  simp [Memory.wf, Memory.rising_iff]

theorem eraseCell_wf {m : Memory} (h : m.wf = true) (k : Nat) : (eraseCell m k).wf = true := by
  rw [Memory.wf_iff] at h ⊢
  exact ⟨h.1.filter _, fun c hc => h.2 c (List.mem_filter.mp hc).1⟩

theorem mem_insertCell {m : Memory} {k : Nat} {v : Word} {c : Nat × Word} :
    c ∈ insertCell m k v ↔ c = (k, v) ∨ c ∈ m := by
  induction m with
  | nil => simp [insertCell]
  | cons d m ih =>
    rw [insertCell]
    split
    · simp
    · rw [List.mem_cons, ih, List.mem_cons]
      tauto

theorem insertCell_pairwise {m : Memory} (h : m.Pairwise (·.1 < ·.1)) (k : Nat) (v : Word) (hk : ∀ c ∈ m, c.1 ≠ k) :
    (insertCell m k v).Pairwise (·.1 < ·.1) := by
  induction m with
  | nil => simp [insertCell]
  | cons d m ih =>
    obtain ⟨hd, hm⟩ := List.pairwise_cons.mp h
    have hdk : d.1 ≠ k := hk d (by simp)
    rw [insertCell]
    split
    · next hlt =>
      refine List.pairwise_cons.mpr ⟨fun c hc => ?_, h⟩
      rcases List.mem_cons.mp hc with rfl | hc
      · exact hlt
      · exact lt_trans hlt (hd c hc)
    · refine List.pairwise_cons.mpr ⟨fun c hc => ?_, ih hm fun c hc => hk c (by simp [hc])⟩
      rcases mem_insertCell.mp hc with rfl | hc
      · show d.1 < k
        omega
      · exact hd c hc

/-- A write keeps the canonical form. -/
theorem writeMem_wf {m : Memory} (h : m.wf = true) (a v : Word) : (writeMem m a v).wf = true := by
  unfold writeMem
  have he := eraseCell_wf h a.toNat
  split
  · exact he
  · next hv =>
    rw [Memory.wf_iff] at he ⊢
    refine ⟨insertCell_pairwise he.1 _ _ eraseCell_ne, fun c hc => ?_⟩
    rcases mem_insertCell.mp hc with rfl | hc
    · exact ⟨a.isLt, hv⟩
    · exact he.2 c hc

/-- Loading an image keeps the canonical form. -/
theorem loadFrom_wf {m : Memory} (h : m.wf = true) (k : Nat) (ws : List Word) : (loadFrom k ws m).wf = true := by
  induction ws generalizing k m with
  | nil => exact h
  | cons w ws ih => exact ih (writeMem_wf h _ _) _

/-- The memory of the reset state is in canonical form. -/
theorem reset_mem_wf : State.reset.mem.wf = true := rfl

/-! ### Equal memories are equal data -/

theorem lookupCell_of_lt {m : Memory} {k : Nat} (h : ∀ c ∈ m, k < c.1) : lookupCell m k = Config.unlistedWord := by
  induction m with
  | nil => rfl
  | cons c m ih =>
    have : c.1 ≠ k := (h c (by simp)).ne'
    rw [lookupCell, if_neg this]
    exact ih fun d hd => h d (by simp [hd])

theorem eq_of_lookupCell {m n : Memory} (hm : m.wf = true) (hn : n.wf = true)
    (h : ∀ k < Config.memWords, lookupCell m k = lookupCell n k) : m = n := by
  rw [Memory.wf_iff] at hm hn
  induction m generalizing n with
  | nil =>
    cases n with
    | nil => rfl
    | cons d n =>
      have hd := hn.2 d (by simp)
      have := h d.1 hd.1
      rw [lookupCell, lookupCell, if_pos rfl] at this
      exact absurd this.symm hd.2
  | cons c m ih =>
    have hc := hm.2 c (by simp)
    have hcm := (List.pairwise_cons.mp hm.1).1
    cases n with
    | nil =>
      have := h c.1 hc.1
      rw [lookupCell, lookupCell, if_pos rfl] at this
      exact absurd this hc.2
    | cons d n =>
      have hd := hn.2 d (by simp)
      have hdn := (List.pairwise_cons.mp hn.1).1
      have hcd : c.1 = d.1 := by
        rcases Nat.lt_trichotomy c.1 d.1 with hlt | heq | hlt
        · have e := h c.1 hc.1
          rw [lookupCell, if_pos rfl, lookupCell_of_lt] at e
          · exact absurd e hc.2
          · intro x hx
            rcases List.mem_cons.mp hx with rfl | hx
            · exact hlt
            · exact hlt.trans (hdn x hx)
        · exact heq
        · have e := h d.1 hd.1
          rw [lookupCell_of_lt, lookupCell, if_pos rfl] at e
          · exact absurd e.symm hd.2
          · intro x hx
            rcases List.mem_cons.mp hx with rfl | hx
            · exact hlt
            · exact hlt.trans (hcm x hx)
      have hv : c.2 = d.2 := by
        have e := h c.1 hc.1
        rwa [lookupCell, if_pos rfl, lookupCell, if_pos hcd.symm] at e
      have hrest : m = n := by
        refine ih ⟨(List.pairwise_cons.mp hm.1).2, fun x hx => hm.2 x (by simp [hx])⟩
          ⟨(List.pairwise_cons.mp hn.1).2, fun x hx => hn.2 x (by simp [hx])⟩ fun k hk => ?_
        by_cases hkc : c.1 = k
        · subst hkc
          rw [lookupCell_of_lt hcm, lookupCell_of_lt]
          intro x hx
          rw [hcd]
          exact hdn x hx
        · have e := h k hk
          rwa [lookupCell, if_neg hkc, lookupCell, if_neg (hcd ▸ hkc)] at e
      rw [hrest, Prod.ext hcd hv]

/-- Memories in canonical form that read alike are the same list. -/
theorem Memory.eq_of_readMem {m n : Memory} (hm : m.wf = true) (hn : n.wf = true)
    (h : ∀ a, readMem m a = readMem n a) : m = n := by
  refine eq_of_lookupCell hm hn fun k hk => ?_
  have e := h (BitVec.ofNat 16 k)
  have : (BitVec.ofNat 16 k).toNat = k := by
    rw [BitVec.toNat_ofNat]
    exact Nat.mod_eq_of_lt hk
  rwa [readMem, readMem, this] at e

/-- Writing a cell's own word changes nothing, in a memory in canonical form. -/
theorem writeMem_self {m : Memory} (hm : m.wf = true) (a : Word) : writeMem m a (readMem m a) = m := by
  refine Memory.eq_of_readMem (writeMem_wf hm _ _) hm fun b => ?_
  rw [readMem_writeMem]
  split
  · next h => rw [h]
  · rfl

/-! ### A loaded image -/

/-- Loading `ws` from address `k` on, with no wrap past the top, changes exactly the cells of `ws`. -/
theorem readMem_loadFrom (ws : List Word) (k : Nat) (m : Memory) (a : Word) (h : k + ws.length ≤ Config.memWords) :
    readMem (loadFrom k ws m) a =
      if k ≤ a.toNat ∧ a.toNat < k + ws.length then ws.getD (a.toNat - k) 0 else readMem m a := by
  induction ws generalizing k m with
  | nil =>
    rw [loadFrom, if_neg]
    simp
  | cons w ws ih =>
    simp only [List.length_cons] at h ⊢
    have hk : k < 2 ^ 16 := by
      have : Config.memWords = 2 ^ 16 := rfl
      omega
    have ha : a = Word.wrap k ↔ a.toNat = k := by
      refine ⟨fun e => ?_, fun e => BitVec.eq_of_toNat_eq ?_⟩
      · rw [e, BitVec.toNat_ofNat, Nat.mod_eq_of_lt hk]
      · rw [BitVec.toNat_ofNat, Nat.mod_eq_of_lt hk, e]
    rw [loadFrom, ih (k + 1) _ (by omega), readMem_writeMem]
    by_cases h1 : k + 1 ≤ a.toNat ∧ a.toNat < k + 1 + ws.length
    · have h2 : a.toNat - k = a.toNat - (k + 1) + 1 := by omega
      rw [if_pos h1, if_pos (by omega), h2, List.getD_cons_succ]
    · rw [if_neg h1]
      by_cases h3 : a.toNat = k
      · rw [if_pos (ha.mpr h3), if_pos (by omega), h3, Nat.sub_self, List.getD_cons_zero]
      · rw [if_neg (mt ha.mp h3), if_neg (by omega)]

end Sys2Proof.Machine
end

