-- ==== Sys2Proof/Laws/Operands.lean ====
section
/-!
SUPPORT. What resolving, reading and writing an operand can do, said once.
-/

namespace Sys2Proof.Machine

/-! ### Resolving: `pc` passes the extra word, `sp` takes the mode's side effect, nothing else changes -/

@[simp] theorem resolve_pc (opd : Operand) (s : State) :
    (resolve opd s).2.pc = s.pc + BitVec.ofNat 16 opd.words.length := by
  cases opd <;> simp [resolve, Operand.words]

@[simp] theorem resolve_sp (opd : Operand) (s : State) : (resolve opd s).2.sp = s.sp + opd.spChange := by
  cases opd <;> simp [resolve, Operand.spChange, BitVec.sub_eq_add_neg]

@[simp] theorem resolve_ov (opd : Operand) (s : State) : (resolve opd s).2.ov = s.ov := by cases opd <;> rfl
@[simp] theorem resolve_regs (opd : Operand) (s : State) : (resolve opd s).2.regs = s.regs := by cases opd <;> rfl
@[simp] theorem resolve_mem (opd : Operand) (s : State) : (resolve opd s).2.mem = s.mem := by cases opd <;> rfl
@[simp] theorem resolve_diag (opd : Operand) (s : State) : (resolve opd s).2.diag = s.diag := by cases opd <;> rfl
@[simp] theorem resolve_reg (opd : Operand) (s : State) (r : Reg) : (resolve opd s).2.reg r = s.reg r := by cases opd <;> rfl
@[simp] theorem resolve_cell (opd : Operand) (s : State) (k : Word) : (resolve opd s).2.cell k = s.cell k := by
  cases opd <;> rfl

/-- A literal operand, and no other, resolves to an immediate. -/
theorem assignable_resolve (opd : Operand) (s : State) : assignable (resolve opd s).1 = !opd.isLiteral := by
  cases opd <;> rfl

theorem resolve_eq_reg {opd : Operand} {s : State} {r : Reg} : (resolve opd s).1 = .reg r ↔ opd = .reg r := by
  cases opd <;> simp [resolve]

theorem resolve_eq_pc {opd : Operand} {s : State} : (resolve opd s).1 = .spec .pc ↔ opd = .pc := by
  cases opd <;> simp [resolve]

theorem resolve_eq_sp {opd : Operand} {s : State} : (resolve opd s).1 = .spec .sp ↔ opd = .sp := by
  cases opd <;> simp [resolve]

theorem resolve_eq_ov {opd : Operand} {s : State} : (resolve opd s).1 = .spec .ov ↔ opd = .o := by
  cases opd <;> simp [resolve]

/-! ### Passing over several operands -/

@[simp] theorem passOver_nil (s : State) : passOver [] s = s := rfl

@[simp] theorem passOver_cons (opd : Operand) (opds : List Operand) (s : State) :
    passOver (opd :: opds) s = passOver opds (resolve opd s).2 := rfl

theorem passOver_pc (opds : List Operand) (s : State) :
    (passOver opds s).pc = s.pc + BitVec.ofNat 16 (opds.flatMap Operand.words).length := by
  induction opds generalizing s with
  | nil => simp
  | cons opd opds ih => rw [passOver_cons, ih, resolve_pc, List.flatMap_cons, List.length_append, BitVec.ofNat_add,
      BitVec.add_assoc]

theorem passOver_sp (opds : List Operand) (s : State) :
    (passOver opds s).sp = s.sp + (opds.map Operand.spChange).sum := by
  induction opds generalizing s with
  | nil => simp
  | cons opd opds ih => rw [passOver_cons, ih, resolve_sp, List.map_cons, List.sum_cons, BitVec.add_assoc]

@[simp] theorem passOver_ov (opds : List Operand) (s : State) : (passOver opds s).ov = s.ov := by
  induction opds generalizing s <;> simp [*]
@[simp] theorem passOver_regs (opds : List Operand) (s : State) : (passOver opds s).regs = s.regs := by
  induction opds generalizing s <;> simp [*]
@[simp] theorem passOver_mem (opds : List Operand) (s : State) : (passOver opds s).mem = s.mem := by
  induction opds generalizing s <;> simp [*]
@[simp] theorem passOver_diag (opds : List Operand) (s : State) : (passOver opds s).diag = s.diag := by
  induction opds generalizing s <;> simp [*]
@[simp] theorem passOver_reg (opds : List Operand) (s : State) (r : Reg) : (passOver opds s).reg r = s.reg r := by
  rw [State.reg, State.reg, passOver_regs]
@[simp] theorem passOver_cell (opds : List Operand) (s : State) (k : Word) : (passOver opds s).cell k = s.cell k := by
  rw [State.cell, State.cell, passOver_mem]

/-! ### The skip writes nothing -/

@[simp] theorem skipInstruction_ov (s : State) : (skipInstruction s).ov = s.ov := by simp [skipInstruction]
@[simp] theorem skipInstruction_regs (s : State) : (skipInstruction s).regs = s.regs := by simp [skipInstruction]
@[simp] theorem skipInstruction_mem (s : State) : (skipInstruction s).mem = s.mem := by simp [skipInstruction]
@[simp] theorem skipInstruction_diag (s : State) : (skipInstruction s).diag = s.diag := by simp [skipInstruction]
@[simp] theorem skipInstruction_reg (s : State) (r : Reg) : (skipInstruction s).reg r = s.reg r := by
  rw [State.reg, State.reg, skipInstruction_regs]
@[simp] theorem skipInstruction_cell (s : State) (k : Word) : (skipInstruction s).cell k = s.cell k := by
  rw [State.cell, State.cell, skipInstruction_mem]

/-! ### Writing: one slot changes, or the literal-write output is set -/

theorem writeLoc_pc (loc : Resolved) (v : Word) (s : State) : (writeLoc loc v s).pc = if loc = .spec .pc then v else s.pc := by
  cases loc with
  | spec p => cases p <;> rfl
  | _ => rfl

theorem writeLoc_sp (loc : Resolved) (v : Word) (s : State) : (writeLoc loc v s).sp = if loc = .spec .sp then v else s.sp := by
  cases loc with
  | spec p => cases p <;> rfl
  | _ => rfl

theorem writeLoc_ov (loc : Resolved) (v : Word) (s : State) : (writeLoc loc v s).ov = if loc = .spec .ov then v else s.ov := by
  cases loc with
  | spec p => cases p <;> rfl
  | _ => rfl

theorem writeLoc_reg (loc : Resolved) (v : Word) (s : State) (r : Reg) :
    (writeLoc loc v s).reg r = if loc = .reg r then v else s.reg r := by
  cases loc with
  | spec p => cases p <;> rfl
  | reg q => simp [writeLoc, eq_comm]
  | _ => rfl

theorem writeLoc_cell (loc : Resolved) (v : Word) (s : State) (k : Word) :
    (writeLoc loc v s).cell k = if loc = .mem k then v else s.cell k := by
  cases loc with
  | spec p => cases p <;> rfl
  | mem a => simp [writeLoc, eq_comm]
  | _ => rfl

theorem writeLoc_diag (loc : Resolved) (v : Word) (s : State) :
    (writeLoc loc v s).diag = if assignable loc then s.diag else { s.diag with literalWrite := true } := by
  cases loc with
  | spec p => cases p <;> rfl
  | _ => rfl

/-- A write through any operand keeps memory in canonical form. -/
theorem writeLoc_mem_wf {s : State} (h : s.mem.wf = true) (loc : Resolved) (v : Word) : (writeLoc loc v s).mem.wf = true := by
  cases loc with
  | spec p => cases p <;> exact h
  | mem a => exact writeMem_wf h a v
  | _ => exact h

/-! ### The common pattern -/

/-- A basic opcode that writes back and leaves `ov` alone. -/
theorem execBasic_res {f : Word → Word → Computed} {g : Word → Word → Word} (hf : ∀ va vb, f va vb = { res := some (g va vb) })
    (a b : Operand) (s : State) :
    execBasic f a b s =
      let t := (resolveBoth a b s).2.2
      writeLoc (resolveBoth a b s).1 (g (readLoc (resolveBoth a b s).1 t) (readLoc (resolveBoth a b s).2.1 t)) t := by
  simp only [execBasic, hf, writeBack, updateOv, skipIfFalse]

/-- A basic opcode that writes back and then updates `ov`. -/
theorem execBasic_res_ov {f : Word → Word → Computed} {g h : Word → Word → Word}
    (hf : ∀ va vb, f va vb = { res := some (g va vb), ovNew := some (h va vb) }) (a b : Operand) (s : State) :
    execBasic f a b s =
      let t := (resolveBoth a b s).2.2
      let va := readLoc (resolveBoth a b s).1 t
      let vb := readLoc (resolveBoth a b s).2.1 t
      (writeLoc (resolveBoth a b s).1 (g va vb) t).setOv (h va vb) := by
  simp only [execBasic, hf, writeBack, updateOv, skipIfFalse]

/-- A conditional: it goes on, or skips the next instruction. -/
theorem execBasic_cond {f : Word → Word → Computed} {p : Word → Word → Bool} (hf : ∀ va vb, f va vb = { cond := some (p va vb) })
    (a b : Operand) (s : State) :
    execBasic f a b s =
      let t := (resolveBoth a b s).2.2
      if p (readLoc (resolveBoth a b s).1 t) (readLoc (resolveBoth a b s).2.1 t) then t else skipInstruction t := by
  simp only [execBasic, hf, writeBack, updateOv, skipIfFalse]
  split <;> simp_all

/-- After both operands are decoded: the locations, and the state. -/
theorem resolveBoth_fst (a b : Operand) (s : State) : (resolveBoth a b s).1 = (resolve a s).1 := rfl
theorem resolveBoth_snd (a b : Operand) (s : State) : (resolveBoth a b s).2.1 = (resolve b (resolve a s).2).1 := rfl
theorem resolveBoth_state (a b : Operand) (s : State) : (resolveBoth a b s).2.2 = (resolve b (resolve a s).2).2 := rfl

end Sys2Proof.Machine
end

