-- ==== Sys2Proof/Laws/PerInstr.lean ====
section
/-!
SUPPORT. The laws stated per instruction (LAWS.json): for the family `EncodedLength`, one lemma per constructor.
-/

namespace Sys2Proof.Laws.EncodedLength

/-- An instruction has one word and one more for each extra word its operand codes take, so three at most
(30_encoding.md R94). -/
def Statement (i : Instr) : Prop :=
  (encode i).length = 1 + (i.operands.map fun opd => extraWords opd.code).sum ∧ (encode i).length ≤ 3

theorem of_two {i : Instr} {a b : Operand} (h : i.operands = [a, b]) : Statement i := by
  have := words_length_le a
  have := words_length_le b
  constructor <;> simp [encode, h] <;> omega

theorem of_one {i : Instr} {b : Operand} (h : i.operands = [b]) : Statement i := by
  have := words_length_le b
  constructor <;> simp [encode, h] <;> omega

theorem set (a b : Operand) : Statement (.set a b) := of_two rfl
theorem add (a b : Operand) : Statement (.add a b) := of_two rfl
theorem sub (a b : Operand) : Statement (.sub a b) := of_two rfl
theorem mul (a b : Operand) : Statement (.mul a b) := of_two rfl
theorem div (a b : Operand) : Statement (.div a b) := of_two rfl
theorem mod (a b : Operand) : Statement (.mod a b) := of_two rfl
theorem shl (a b : Operand) : Statement (.shl a b) := of_two rfl
theorem shr (a b : Operand) : Statement (.shr a b) := of_two rfl
theorem and (a b : Operand) : Statement (.and a b) := of_two rfl
theorem bor (a b : Operand) : Statement (.bor a b) := of_two rfl
theorem xor (a b : Operand) : Statement (.xor a b) := of_two rfl
theorem ife (a b : Operand) : Statement (.ife a b) := of_two rfl
theorem ifn (a b : Operand) : Statement (.ifn a b) := of_two rfl
theorem ifg (a b : Operand) : Statement (.ifg a b) := of_two rfl
theorem ifb (a b : Operand) : Statement (.ifb a b) := of_two rfl
theorem jsr (b : Operand) : Statement (.jsr b) := of_one rfl
theorem unknownExt (sel : BitVec 6) (b : Operand) : Statement (.unknownExt sel b) := of_one rfl

end Sys2Proof.Laws.EncodedLength
end

