-- ==== Sys2Proof/Laws/Policy.lean ====
section
/-!
SUPPORT. The core under either setting of `UNKNOWN_EXT_POLICY`, against `exec` and `step`.
-/

namespace Sys2Proof.Machine

/-- Under the configured policy `execUnder` is `exec`. -/
theorem execUnder_config (i : Instr) (s : State) : execUnder Config.unknownExtPolicy i s = exec i s := by
  cases i <;> rfl

/-- The policy does not matter to an instruction that is not an unknown extended one. -/
theorem execUnder_of_known {i : Instr} (h : i.isUnknownExt = false) (policy : Config.UnknownExtPolicy) (s : State) :
    execUnder policy i s = exec i s := by
  cases i with
  | unknownExt _ _ => cases h
  | _ => rfl

/-- Under `fault` an unknown extended instruction is stuck. -/
theorem execUnder_fault {i : Instr} (h : i.isUnknownExt = true) (s : State) :
    execUnder .fault i s = .fault .stuckUnknownExt := by
  cases i with
  | unknownExt _ _ => rfl
  | _ => cases h

/-- Under the configured policy `stepUnder` is `step`. -/
theorem stepUnder_config (s : State) : stepUnder Config.unknownExtPolicy s = step s := execUnder_config _ _

/-- Under `fault` a step is stuck at an unknown extended instruction and is `step` at any other. -/
theorem stepUnder_fault (s : State) :
    stepUnder .fault s = if (peek s).isUnknownExt then .fault .stuckUnknownExt else step s := by
  split
  · exact execUnder_fault ‹_› _
  · exact execUnder_of_known (Bool.eq_false_iff.mpr ‹_›) _ _

@[simp] theorem runUnder_zero (policy : Config.UnknownExtPolicy) (s : State) : runUnder policy 0 s = .next s := rfl

theorem core_run_next {M : Host.Core} {s t : M.State} (h : M.step s = .next t) (n : Nat) :
    M.run (n + 1) s = M.run n t := by
  simp [Host.Core.run, h]

theorem core_run_fault {M : Host.Core} {s : M.State} {r : M.Fault} (h : M.step s = .fault r) (n : Nat) :
    M.run (n + 1) s = .fault r := by
  simp [Host.Core.run, h]

/-- A run of one step more goes on from the state its first step answers. -/
theorem runUnder_succ_next {policy : Config.UnknownExtPolicy} {s t : State} (h : stepUnder policy s = .next t) (n : Nat) :
    runUnder policy (n + 1) s = runUnder policy n t :=
  core_run_next (M := coreUnder policy) h n

/-- A run ends where its first step stops. -/
theorem runUnder_succ_fault {policy : Config.UnknownExtPolicy} {s : State} {r : Fault} (h : stepUnder policy s = .fault r)
    (n : Nat) : runUnder policy (n + 1) s = .fault r :=
  core_run_fault (M := coreUnder policy) h n

end Sys2Proof.Machine
end

