-- ==== Sys2Proof/Machine/Assembly.lean ====
section
/-!
DEFINITION. The assembly syntax of an instruction (30_encoding.md R102–R105): how an instruction is written, and how a
literal is encoded in the spec's examples. No instruction's effect depends on this file.
-/

namespace Sys2Proof

/-- The name of a register (30_encoding.md R103). -/
def Reg.name : Reg → String
  | .a => "A"
  | .b => "B"
  | .c => "C"
  | .x => "X"
  | .y => "Y"
  | .z => "Z"
  | .i => "I"
  | .j => "J"

/-- A hexadecimal digit. -/
def hexDigit (n : Nat) : Char := if n < 10 then Char.ofNat (48 + n) else Char.ofNat (55 + n)

/-- A word in hexadecimal, four digits; four of them by choice (30_encoding.md R103; DESIGN CHOICE, safe:
notes/assumptions/15.md). -/
def hexText (w : Word) : String :=
  "0x" ++ String.ofList
    [hexDigit (w.toNat / 4096), hexDigit (w.toNat / 256 % 16), hexDigit (w.toNat / 16 % 16), hexDigit (w.toNat % 16)]

/-- The syntax of an operand (30_encoding.md R103). -/
def Operand.text : Operand → String
  | .reg r => r.name
  | .ind r => "[" ++ r.name ++ "]"
  | .indOff n r => "[" ++ hexText n ++ " + " ++ r.name ++ "]"
  | .pop => "POP"
  | .peek => "PEEK"
  | .push => "PUSH"
  | .sp => "SP"
  | .pc => "PC"
  | .o => "O"
  | .abs n => "[" ++ hexText n ++ "]"
  | .next n => hexText n
  | .lit v => hexText (Word.wrap v.toNat)

/-- The mnemonic; an unknown extended instruction is written `UNKNOWN` (30_encoding.md R97, R102). -/
def Instr.mnemonic : Instr → String
  | .set _ _ => "SET"
  | .add _ _ => "ADD"
  | .sub _ _ => "SUB"
  | .mul _ _ => "MUL"
  | .div _ _ => "DIV"
  | .mod _ _ => "MOD"
  | .shl _ _ => "SHL"
  | .shr _ _ => "SHR"
  | .and _ _ => "AND"
  | .bor _ _ => "BOR"
  | .xor _ _ => "XOR"
  | .ife _ _ => "IFE"
  | .ifn _ _ => "IFN"
  | .ifg _ _ => "IFG"
  | .ifb _ _ => "IFB"
  | .jsr _ => "JSR"
  | .unknownExt _ _ => "UNKNOWN"

/-- `MNEMONIC A, B` for the basic format, `JSR B` or `UNKNOWN B` for the extended one (30_encoding.md R102). -/
def Instr.text (i : Instr) : String := i.mnemonic ++ " " ++ ", ".intercalate (i.operands.map Operand.text)

/-- The operand that a literal value becomes in the spec's examples: inline for 0 to 31, else the next-word form
(30_encoding.md R105). -/
def literalOperand (v : Word) : Operand := if v.toNat ≤ 31 then .lit (BitVec.ofNat 5 v.toNat) else .next v

/-- The operand that a label becomes: its address in the next-word form (30_encoding.md R104, R105). -/
def labelOperand (address : Word) : Operand := .next address

end Sys2Proof
end

