-- ==== Sys2Proof/Tests/Slice0.lean ====
section
/-!
SUPPORT. The model's own tests: the ill-formed term, each constructor's decoding from a word written out from the spec's
encoding, one step each of vectors of 95_test_vectors.md (the id stands above each), and, for every statement with
hypotheses, a witness that meets them.
-/

open Sys2Proof Sys2Proof.Machine Sys2Proof.Claims

namespace Sys2Proof.Tests

/-- `s` with the words `ws` placed from address `a` on. -/
def place (a : Nat) (ws : List Word) (s : State) : State := { s with mem := loadFrom a ws s.mem }

/-- The reset state with the words `ws` at address 0. -/
def boot (ws : List Word) : State := place 0 ws State.reset

/-- The next state of an outcome, if it is one. -/
def result : Host.Outcome State Fault Refusal → Option State
  | .next t => some t
  | .fault _ => none
  | .refused _ => none

/-- `f` of the state after one step from `s`. -/
def after {α : Type} (s : State) (f : State → α) : Option α := (result (step s)).map f

/-- The instruction and the words left over that a list of words decodes to. -/
def read? (ws : List Word) : Option (Instr × List Word) :=
  match decodeWords ws with
  | .ok r => some r
  | .error _ => none

/-! ### Well-formedness and rejection by name -/

theorem test_jsr_selector_is_ill_formed : (Instr.unknownExt 0x01 (.reg .a)).wellFormed = false := by decide
theorem test_decoder_rejects_no_word : decodeWords [] = .error .noWord := rfl
theorem test_decoder_rejects_truncated : decodeWords [0x7DE1, 0x1000] = .error .truncated := rfl

/-! ### Decoding, from words written out by 30_encoding.md R90–R98: b (6 bits), a or sel (6 bits), op (4 bits) -/

theorem test_decode_set : read? [0b000011_000001_0001] = some (.set (.reg .b) (.reg .x), []) := by decide
theorem test_decode_add : read? [0b100101_000111_0010] = some (.add (.reg .j) (.lit 5), []) := by decide
theorem test_decode_sub : read? [0b011011_001100_0011] = some (.sub (.ind .y) .sp, []) := by decide
theorem test_decode_mul : read? [0b011111_000010_0100, 9] = some (.mul (.reg .c) (.next 9), []) := by decide
theorem test_decode_div : read? [0b011101_000110_0101] = some (.div (.reg .i) .o, []) := by decide
theorem test_decode_mod : read? [0b011001_011011_0110] = some (.mod .sp .peek, []) := by decide
theorem test_decode_shl : read? [0b111111_000101_0111] = some (.shl (.reg .z) (.lit 31), []) := by decide
theorem test_decode_shr : read? [0b100000_011101_1000] = some (.shr .o (.lit 0), []) := by decide
theorem test_decode_and : read? [0b000001_011110_1001, 7] = some (.and (.abs 7) (.reg .b), []) := by decide
theorem test_decode_bor : read? [0b011000_011010_1010] = some (.bor .push .pop, []) := by decide
theorem test_decode_xor : read? [0b010001_010110_1011, 3, 4, 5] = some (.xor (.indOff 3 .i) (.indOff 4 .b), [5]) := by decide
theorem test_decode_ife : read? [0b100010_011000_1100] = some (.ife .pop (.lit 2), []) := by decide
theorem test_decode_ifn : read? [0b011100_000000_1101] = some (.ifn (.reg .a) .pc, []) := by decide
theorem test_decode_ifg : read? [0b000000_100101_1110] = some (.ifg (.lit 5) (.reg .a), []) := by decide
theorem test_decode_ifb : read? [0b001111_011001_1111] = some (.ifb .peek (.ind .j), []) := by decide
theorem test_decode_jsr : read? [0b010111_000001_0000, 6] = some (.jsr (.indOff 6 .j), []) := by decide
theorem test_decode_unknownExt : read? [0b011111_011111_0000, 8] = some (.unknownExt 0x1F (.next 8), []) := by decide

theorem test_table_words :
    decodeTableWord 16 0x0010 = some (.jsr (.reg .a)) ∧ decodeTableWord 16 0x0000 = some (.unknownExt 0 (.reg .a)) ∧
      decodeTableWord 16 0x7C01 = some (.set (.reg .a) (.next 0)) ∧
      decodeTableWord 48 0x0040_1000_7DE1 = some (.set (.abs 0x1000) (.next 0x0040)) := by decide
theorem test_fetch_word_runs :
    after (State.reset.withFetchWord 16 0x7C11) (fun t => (t.pc, t.regs.b, t.mem)) = some (2, 0, [(0, 0x7C11)]) := by decide

/-! ### One step each (95_test_vectors.md) -/

/-- SET-1. -/
theorem test_set_leaves_ov :
    after ((boot [0x0011]).setReg .a 0x1234 |>.setOv 0x5555) (fun t => (t.pc, t.regs.b, t.ov)) =
      some (0x0001, 0x1234, 0x5555) := by decide
/-- OPD-21. -/
theorem test_set_push_sp :
    after ((boot [0x6DA1]).setSp 0x8000) (fun t => (t.pc, t.sp, t.cell 0x7FFF)) = some (0x0001, 0x7FFF, 0x7FFF) := by decide
/-- ADD-4. -/
theorem test_add_to_ov_keeps_carry : after ((boot [0x85D2]).setOv 0xFFFF) (fun t => (t.pc, t.ov)) = some (0x0001, 0x0001) := by
  decide
/-- ADD-5. -/
theorem test_add_literal_destination :
    after ((boot [0x7E52, 0xFFFF]).setOv 7) (fun t => (t.pc, t.ov, t.diag)) = some (0x0002, 0x0001, ⟨true, false⟩) := by decide
/-- SUB-4. -/
theorem test_sub_borrow :
    after ((boot [0x0403]).setReg .a 1 |>.setReg .b 0xFFFF) (fun t => (t.regs.a, t.ov)) = some (0x0002, 0xFFFF) := by decide
/-- SUB-5. -/
theorem test_sub_pc_loops : after (boot [0x85C3]) (fun t => (t.pc, t.ov)) = some (0x0000, 0x0000) := by decide
/-- MUL-1. -/
theorem test_mul_high_half :
    after ((boot [0x7C04, 0x0100]).setReg .a 0x1234) (fun t => (t.pc, t.regs.a, t.ov)) = some (0x0002, 0x3400, 0x0012) := by
  decide
/-- MUL-2. -/
theorem test_mul_largest :
    after ((boot [0x0404]).setReg .a 0xFFFF |>.setReg .b 0xFFFF) (fun t => (t.regs.a, t.ov)) = some (0x0001, 0xFFFE) := by decide
/-- DIV-3. -/
theorem test_div_fraction : after ((boot [0x8C05]).setReg .a 1) (fun t => (t.regs.a, t.ov)) = some (0x0000, 0x5555) := by decide
/-- DIV-2. -/
theorem test_div_by_zero :
    after ((boot [0x8005]).setReg .a 10 |>.setOv 5) (fun t => (t.regs.a, t.ov)) = some (0x0000, 0x0000) := by decide
/-- MOD-1. -/
theorem test_mod_leaves_ov :
    after ((boot [0x8C06]).setReg .a 7 |>.setOv 0x1234) (fun t => (t.regs.a, t.ov)) = some (0x0001, 0x1234) := by decide
/-- MOD-2. -/
theorem test_mod_by_zero :
    after ((boot [0x8006]).setReg .a 7 |>.setOv 0x1234) (fun t => (t.regs.a, t.ov)) = some (0x0000, 0x1234) := by decide
/-- SHL-5. -/
theorem test_shl_past_the_width :
    after ((boot [0xD007]).setReg .a 0xABCD) (fun t => (t.regs.a, t.ov)) = some (0x0000, 0xBCD0) := by decide
/-- SHL-7. -/
theorem test_shl_by_the_largest_amount :
    after ((boot [0x0407]).setReg .a 0xFFFF |>.setReg .b 0xFFFF) (fun t => (t.regs.a, t.ov)) = some (0, 0) := by decide
/-- SHR-2. -/
theorem test_shr_bit_out : after ((boot [0x8408]).setReg .a 1) (fun t => (t.regs.a, t.ov)) = some (0x0000, 0x8000) := by decide
/-- SHR-5. -/
theorem test_shr_past_the_width :
    after ((boot [0xD008]).setReg .a 0xABCD) (fun t => (t.regs.a, t.ov)) = some (0x0000, 0x0ABC) := by decide
/-- BIT-1. -/
theorem test_and :
    after ((boot [0x0409]).setReg .a 0xF0F0 |>.setReg .b 0xFF00 |>.setOv 0x1234) (fun t => (t.regs.a, t.ov)) =
      some (0xF000, 0x1234) := by decide
/-- BIT-7. -/
theorem test_and_literal_destination :
    after (boot [0x8E59]) (fun t => (t.pc, t.regs, t.diag)) = some (0x0001, Regs.zero, ⟨true, false⟩) := by decide
/-- BIT-2. -/
theorem test_bor : after ((boot [0x040A]).setReg .a 0xF0F0 |>.setReg .b 0xFF00) (fun t => t.regs.a) = some 0xFFF0 := by decide
/-- BIT-3. -/
theorem test_xor : after ((boot [0x040B]).setReg .a 0xF0F0 |>.setReg .b 0xFF00) (fun t => t.regs.a) = some 0x0FF0 := by decide
/-- IF-12. -/
theorem test_ife_skips_two_pops :
    after ((boot [0x880C, 0x6181]).setReg .a 1) (fun t => (t.pc, t.sp, t.mem.length)) = some (0x0002, 0x0001, 2) := by decide
/-- IF-13. -/
theorem test_ife_skips_jsr_selector_takes_no_word :
    after ((boot [0x880C, 0x7C10, 0x0100]).setReg .a 1) (fun t => (t.pc, t.sp)) = some (0x0003, 0xFFFF) := by decide
/-- IF-4. -/
theorem test_ifn_skips_when_equal :
    after ((boot [0x040D, 0x8421]).setReg .a 1 |>.setReg .b 1) (fun t => (t.pc, t.regs.c)) = some (0x0002, 0) := by decide
/-- IF-3. -/
theorem test_ifn_goes_on_when_different :
    after ((boot [0x040D, 0x8421]).setReg .a 1 |>.setReg .b 2) (fun t => t.pc) = some 0x0001 := by decide
/-- IF-5. -/
theorem test_ifg_is_unsigned : after ((boot [0x840E, 0x8421]).setReg .a 0xFFFF) (fun t => t.pc) = some 0x0001 := by decide
/-- IF-6. -/
theorem test_ifg_skips_when_equal : after ((boot [0x840E, 0x8421]).setReg .a 1) (fun t => t.pc) = some 0x0002 := by decide
/-- IF-7. -/
theorem test_ifb_common_bit : after ((boot [0xA00F, 0x8421]).setReg .a 0x0018) (fun t => t.pc) = some 0x0001 := by decide
/-- IF-8. -/
theorem test_ifb_no_common_bit :
    after ((boot [0x7C0F, 0x00F0, 0x8421]).setReg .a 0x000F) (fun t => t.pc) = some 0x0003 := by decide
/-- JSR-3. -/
theorem test_jsr_pop :
    after (place 0xFFFF [0x0300] (boot [0x6010])) (fun t => (t.pc, t.sp, t.cell 0xFFFF)) = some (0x0300, 0xFFFF, 0x0001) := by
  decide
/-- JSR-10. -/
theorem test_jsr_reads_target_before_push :
    after ((place 0x8000 [0x0600] (boot [0x2410])).setReg .b 0x8000 |>.setSp 0x8001)
      (fun t => (t.pc, t.sp, t.cell 0x8000)) = some (0x0600, 0x8000, 0x0001) := by decide
/-- UEX-2. -/
theorem test_unknownExt_two_words :
    after (boot [0x7C20, 0x1234]) (fun t => (t.pc, t.sp, t.diag)) = some (0x0002, 0xFFFF, ⟨false, true⟩) := by decide
/-- UEX-4. -/
theorem test_unknownExt_push :
    after (boot [0x6BF0]) (fun t => (t.pc, t.sp, t.mem)) = some (0x0001, 0xFFFE, [(0, 0x6BF0)]) := by decide

/-! ### The host's side -/

/-- 70_reset_and_hazards.md R303, R311: the run of the image `SET A, 1`, which then meets a zero word. -/
theorem test_observe_fault : observe .fault [0x8401] 2 = some (.fault .stuckUnknownExt) := rfl
/-- 70_reset_and_hazards.md R303, R311: the same run under `nop`, which goes on. -/
theorem test_observe_nop : (observe .nop [0x8401] 2).bind (fun o => (result o).map State.pc) = some 0x0002 := by decide

/-- 30_encoding.md R102, R106. -/
theorem test_assembly_text :
    (Instr.set (.indOff 0x2000 .a) (.next 0x0040)).text = "SET [0x2000 + A], 0x0040" ∧
      (Instr.jsr (.next 0x0100)).text = "JSR 0x0100" ∧ (Instr.set .pc .pop).text = "SET PC, POP" := by decide
/-- 60_exceptions.md R283. -/
theorem test_host_symbol :
    hostSymbol ['i', 'P'] ((boot []).setPc 7) = some 7 ∧ hostSymbol ['S', 'P'] (boot []) = none := by decide
/-- 60_exceptions.md R283. -/
theorem test_run_verdict : [(-1 : Int), 0, 1].map runVerdict = [.parseFailure, .continueStepping, .stop] := by decide
/-- 20_memory.md R66: the two settings of the loader parameter differ. -/
theorem test_image_byte_order :
    imageOfBytes .highFirst [(0x7C, 0x01)] = [0x7C01] ∧ imageOfBytes .lowFirst [(0x7C, 0x01)] = [0x017C] := by decide

/-! ### Witnesses: the hypotheses of each statement can be met -/

theorem witness_DecodeOfEncodeGivesTheInstruction : (Instr.unknownExt 0x3F (.next 1)).wellFormed = true := by decide

theorem witness_EncodeOfDecodeGivesTheWords : decodeWords [0x7C01, 0x1234, 0x8402] = .ok (.set (.reg .a) (.next 0x1234), [0x8402]) :=
  rfl

theorem witness_InstructionLengthAndExtraWords : (0x7C20 : Word).toNat % 16 = 0 ∧ (0x7DE1 : Word).toNat % 16 ≠ 0 := by decide

theorem witness_InstructionWordFields :
    (0xFFFF : Word).toNat % 16 ≠ 0 ∧ (0xFFF0 : Word).toNat % 16 = 0 ∧
      (0x0010 : Word).toNat % 16 = 0 ∧ (0x0010 : Word).toNat / 16 % 64 = 0x01 := by decide

theorem witness_BasicOpcodeMap : ∀ k : Fin 15, ∃ w ∈ ([0xFFF1, 0xFFF2, 0xFFF3, 0xFFF4, 0xFFF5, 0xFFF6, 0xFFF7, 0xFFF8, 0xFFF9,
    0xFFFA, 0xFFFB, 0xFFFC, 0xFFFD, 0xFFFE, 0xFFFF] : List Word), w.toNat % 16 = k.val + 1 := by decide

theorem witness_EveryWordIsAnInstructionThatRuns :
    ((0xFC10 : Word).toNat % 16 = 0 ∧ (0xFC10 : Word).toNat / 16 % 64 = 1) ∧
      ((0x0020 : Word).toNat % 16 = 0 ∧ (0x0020 : Word).toNat / 16 % 64 ≠ 1) := by decide

theorem witness_RegisterAndMemoryModesResolve :
    ((0x07 : BitVec 6).toNat ≤ 0x07) ∧
      (0x08 ≤ (0x08 : BitVec 6).toNat ∧ 0x08 ≤ (0x0F : BitVec 6).toNat ∧ (0x0F : BitVec 6).toNat ≤ 0x0F) ∧
      (0x10 ≤ (0x10 : BitVec 6).toNat ∧ 0x10 ≤ (0x17 : BitVec 6).toNat ∧ (0x17 : BitVec 6).toNat ≤ 0x17) ∧
      (0x1E : BitVec 6).toNat = 0x1E := by decide

theorem witness_LiteralModesResolve :
    (0x1F : BitVec 6).toNat = 0x1F ∧ 0x20 ≤ (0x20 : BitVec 6).toNat ∧ 0x20 ≤ (0x3F : BitVec 6).toNat := by decide

theorem witness_StackModesResolve :
    (0x18 : BitVec 6).toNat = 0x18 ∧ (0x19 : BitVec 6).toNat = 0x19 ∧ (0x1A : BitVec 6).toNat = 0x1A := by decide

theorem witness_SpecialRegisterModesResolve :
    (0x1B : BitVec 6).toNat = 0x1B ∧ (0x1C : BitVec 6).toNat = 0x1C ∧ (0x1D : BitVec 6).toNat = 0x1D := by decide

theorem witness_OperandPcReadsTheNextInstruction : (peek (boot [0x71C1])).operands = [.pc, .pc] := by decide

theorem witness_WriteChangesItsSlotOnly :
    assignable (.mem 0xFFFF) = true ∧ (Resolved.reg .j) ≠ .mem 0xFFFF ∧ assignable (.imm 5) = false := by decide

theorem witness_StackOperandCornerCases : (boot [1]).Inv ∧ ((boot [1]).setReg .a 2).reg .a = 2 := ⟨rfl, rfl⟩

theorem witness_StepExecutesTheDecodedInstruction :
    let i := Instr.set (.abs 0x1000) (.next 0x0040)
    let s := (place 0 [0x0040] (place 0xFFFE [0x7DE1, 0x1000] State.reset)).setPc 0xFFFE
    i.wellFormed = true ∧ ∀ k < (encode i).length, s.cell (s.pc + BitVec.ofNat 16 k) = (encode i).getD k 0 := by decide

theorem witness_ProgramCounterAfterAStep :
    (peek (boot [0x8411])).writesBack = some (.reg .b, .lit 1) ∧ (Operand.reg .b) ≠ .pc ∧
      (peek (boot [0x61C1])).writesBack = some (.pc, .pop) ∧
      (∃ cond, (peek (boot [0x880C])).condition = some (.reg .a, .lit 2, cond) ∧ cond 0 2 = false ∧ cond 2 2 = true) ∧
      peek (boot [0x7C10, 0x0100]) = .jsr (.next 0x0100) ∧ (peek (boot [0x0000])).isUnknownExt = true :=
  ⟨by decide, by decide, by decide, ⟨_, rfl, by decide, by decide⟩, by decide, by decide⟩

theorem witness_SkipConsumesTheInstructionsWords :
    (peek (boot [0x7DE1, 0x1000, 0x0040])).operands = [.abs 0x1000, .next 0x0040] ∧
      (peek (boot [0x7C10, 0x0100])).operands = [.next 0x0100] ∧
      (peek (boot [0x7DE1, 0x1000, 0x0040])).writesBack = some (.abs 0x1000, .next 0x0040) ∧
      ((.abs 0x1000) : Operand) ≠ .pc ∧
      ∃ cond, (peek (boot [0x800C])).condition = some (.reg .a, .lit 0, cond) ∧
        cond (valA (.reg .a) (.lit 0) (boot [0x800C]).advancePc) (valB (.reg .a) (.lit 0) (boot [0x800C]).advancePc) = true :=
  ⟨by decide, by decide, by decide, by decide, _, rfl, by decide⟩

theorem witness_SkippedConditionalIsNotEvaluated :
    let s := (boot [0x880C, 0x618D]).setReg .a 1
    ∃ cond cond', (peek s).condition = some (.reg .a, .lit 2, cond) ∧
      cond (valA (.reg .a) (.lit 2) s.advancePc) (valB (.reg .a) (.lit 2) s.advancePc) = false ∧
      (peek (decoded (.reg .a) (.lit 2) s.advancePc)).condition = some (.pop, .pop, cond') :=
  ⟨_, _, rfl, by decide, rfl⟩

theorem witness_OverflowValueWinsWhenDestinationIsO :
    ∀ i ∈ [Instr.add .o .pop, .sub .o .pop, .mul .o .pop, .div .o .pop, .shl .o .pop, .shr .o .pop],
      i.updatesOv = true ∧ i.writesBack = some (.o, .pop) := by decide

theorem witness_BitwiseOpcodesWriteThroughA : (Operand.push : Operand) ≠ .o := by decide

theorem witness_IfbSkipsUnlessCommonBit :
    (∃ k < 16, (valA (.lit 16) (.lit 31) State.reset).getLsbD k = true ∧ (valB (.lit 16) (.lit 31) State.reset).getLsbD k = true) ∧
      ∀ k < 16, ¬((valA (.lit 16) (.lit 15) State.reset).getLsbD k = true ∧
        (valB (.lit 16) (.lit 15) State.reset).getLsbD k = true) := by decide

theorem witness_ConditionalsWriteNothing :
    (∃ cond, (Instr.ifg .pop (.lit 0)).condition = some (.pop, .lit 0, cond) ∧
      cond (valA .pop (.lit 0) (boot [])) (valB .pop (.lit 0) (boot [])) = false) ∧
    ∃ cond, (Instr.ifg (.lit 1) (.lit 0)).condition = some (.lit 1, .lit 0, cond) ∧
      cond (valA (.lit 1) (.lit 0) (boot [])) (valB (.lit 1) (.lit 0) (boot [])) = true :=
  ⟨⟨_, rfl, by decide⟩, ⟨_, rfl, by decide⟩⟩

theorem witness_JsrFrame : (∃ t, exec (.jsr .pop) State.reset = .next t) ∧ (0 : Word) ≠ (resolve .pop State.reset).2.sp - 1 :=
  ⟨⟨_, rfl⟩, by decide⟩

theorem witness_ReturnComesBackAfterTheJsr :
    let s := place 0x0100 [0x61C1] (boot [0x7C10, 0x0100])
    ∃ t, peek s = .jsr (.next 0x0100) ∧ step s = .next t ∧ peek t = .set .pc .pop ∧ t.sp = t.sp ∧ t.cell t.sp = t.cell t.sp :=
  ⟨_, by decide, rfl, by decide, rfl, rfl⟩

theorem witness_WriteBackFrame :
    (Instr.shl (.ind .b) .push).writesBack = some (.ind .b, .push) ∧ (∃ t, exec (.shl (.ind .b) .push) State.reset = .next t) ∧
      (resolve (.ind .b) State.reset).1 = .mem 0 ∧ (Instr.mod .sp (.lit 3)).writesBack = some (.sp, .lit 3) ∧
      (∃ t, exec (.mod .sp (.lit 3)) State.reset = .next t) ∧ (∀ k, (resolve .sp State.reset).1 ≠ .mem k) ∧
      (Instr.mod .sp (.lit 3)).updatesOv = false ∧ (Operand.sp : Operand) ≠ .o ∧ (Operand.ind .b) ≠ .sp ∧
      (Operand.ind .b) ≠ .reg .b :=
  ⟨rfl, ⟨_, rfl⟩, rfl, rfl, ⟨_, rfl⟩, (by intro k h; cases h), rfl, by decide, by decide, by decide⟩

theorem witness_StepChangesOnlyWhatItsInstructionNames :
    (∃ t, step (boot [0x8411]) = .next t ∧ t.reg .b ≠ (boot [0x8411]).reg .b) ∧
      (∃ t, step (boot [0x8403]) = .next t ∧ t.ov ≠ (boot [0x8403]).ov) ∧
      ∃ t, step (boot [0x0010]) = .next t ∧ t.cell 0xFFFE ≠ (boot [0x0010]).cell 0xFFFE :=
  ⟨⟨_, rfl, by decide⟩, ⟨_, rfl, by decide⟩, ⟨_, rfl, by decide⟩⟩

theorem witness_StepKeepsMemoryCanonical : (boot [0x85A1]).Inv ∧ ∃ t, step (boot [0x85A1]) = .next t ∧ t.mem ≠ (boot [0x85A1]).mem :=
  ⟨rfl, _, rfl, by decide⟩

theorem witness_ResetMemoryIsCanonical : ∃ s, resetImage [0x0001, 0x0000, 0x8411] = some s := ⟨_, rfl⟩

theorem witness_ResetGivesEveryFieldItsValue :
    (List.replicate 65536 (0xFFFF : Word)).length ≤ 65536 ∧ 65535 < (List.replicate 65536 (0xFFFF : Word)).length ∧
      ([0x8411] : List Word).length ≤ (0x0001 : Word).toNat := by
  rw [List.length_replicate]
  decide

theorem witness_OversizedImageIsRefused : 65536 < (List.replicate 65537 (0 : Word)).length := by
  rw [List.length_replicate]
  decide

theorem witness_FirstPushAfterResetWritesFFFE :
    (∃ s, resetImage [0x7DA1, 0x0042] = some s) ∧ ∃ s, resetImage [0x7C10, 0x0100] = some s := ⟨⟨_, rfl⟩, ⟨_, rfl⟩⟩

theorem witness_LoadReturnsTheWordStored :
    ∃ t, exec (.set (.abs 0xFFFF) (.next 0x1234)) State.reset = .next t ∧ (0 : Word) ≠ 0xFFFF := ⟨_, rfl, by decide⟩

theorem witness_PolicyDecidesOnlyUnknownExtended :
    (peek (boot [0x8401])).isUnknownExt = false ∧ (peek (boot [])).isUnknownExt = true := by decide

theorem witness_RunEndsOnlyAtAnUnknownWordUnderFault :
    (∃ s, resetImage [0x8401] = some s) ∧ (∃ t, runUnder .fault 1 (boot [0x8401]) = .next t) ∧
      (∃ t, runUnder .nop 1 (boot [0x8401]) = .next t ∧ (peek t).isUnknownExt = true) ∧
      ∀ k < 1, ∀ t, runUnder .nop k (boot [0x8401]) = .next t → (peek t).isUnknownExt = false :=
  ⟨⟨_, rfl⟩, ⟨_, rfl⟩, ⟨_, rfl, by decide⟩, fun k hk t h => by
    obtain rfl : k = 0 := by omega
    cases h; decide⟩

theorem witness_StoreToTheNextInstructionIsFetched :
    ∃ t, peek (boot [0x7DE1, 0x0003, 0x8411]) = .set (.abs ((boot [0x7DE1, 0x0003, 0x8411]).pc + 3)) (.next 0x8411) ∧
      step (boot [0x7DE1, 0x0003, 0x8411]) = .next t := ⟨_, by decide, rfl⟩

theorem witness_DiagnosticOutputsOfAStep :
    (∃ t, step (boot [0x0251]) = .next t ∧ t.diag.literalWrite = true) ∧
      ∃ t, step (boot [0x0000]) = .next t ∧ t.diag.unknownExt = true := ⟨⟨_, rfl, by decide⟩, ⟨_, rfl, by decide⟩⟩

end Sys2Proof.Tests
end

