-- ==== Sys2Proof/Proofs/Scope.lean ====
section
/-!
SUPPORT. The scope's own statements (00_scope.md): a step against the spec's pseudocode over `NextWord()`, and the reach
of `UNKNOWN_EXT_POLICY`.
-/

namespace Sys2Proof.Machine

open Sys2Proof.Claims

/-- A number reduced modulo 2^16 is the same word. -/
theorem ofNat_mod_65536 (n : Nat) : BitVec.ofNat 16 (n % 65536) = BitVec.ofNat 16 n :=
  BitVec.eq_of_toNat_eq (by simp)

/-- A sum of words reduced modulo 2^16 is their sum as words. -/
theorem ofNat_toNat_add_mod (v w : Word) : BitVec.ofNat 16 ((v.toNat + w.toNat) % 65536) = v + w :=
  BitVec.eq_of_toNat_eq (by simp)

/-! ### Operands: `Resolve(c)` over a raw code is `resolve` of the decoded operand -/

/-- The operand of code `c` whose extra word, if it has one, is the next of the Word Stream (00_scope.md R11). -/
def operandAt (c : BitVec 6) (s : State) : Operand := decodeOperand c (s.cell s.pc)

/-- The low three bits of an operand code name its register. -/
theorem regNumber_mod_eight (c : BitVec 6) : regNumber (c.toNat % 8) = Reg.ofIndex (c.extractLsb' 0 3) := by
  revert c; decide

/-- The low five bits of an inline literal's code are its value. -/
theorem inlineLiteral_toNat (c : BitVec 6) (h : 0x20 ≤ c.toNat) : (c.extractLsb' 0 5).toNat = c.toNat - 0x20 := by
  have := c.isLt
  simp only [BitVec.extractLsb'_toNat, Nat.shiftRight_zero]
  omega

/-- The spec takes an extra word when it resolves the operand; the model's operand already carries that word. -/
theorem pseudoResolve_toNat (c : BitVec 6) (s : State) : pseudoResolve c.toNat s = resolve (operandAt c s) s := by
  have hreg := regNumber_mod_eight c
  have hlt := c.isLt
  obtain h | ⟨h₁, h₂⟩ | ⟨h₁, h₂⟩ | ⟨h₁, h₂⟩ | h :
      c.toNat ≤ 0x07 ∨ (0x08 ≤ c.toNat ∧ c.toNat ≤ 0x0F) ∨ (0x10 ≤ c.toNat ∧ c.toNat ≤ 0x17) ∨
        (0x18 ≤ c.toNat ∧ c.toNat ≤ 0x1F) ∨ 0x20 ≤ c.toNat := by omega
  · rw [show c.toNat % 8 = c.toNat by omega] at hreg
    simp (disch := omega) only [pseudoResolve, operandAt, decodeOperand, if_pos, hreg, resolve]
  · rw [show c.toNat % 8 = c.toNat - 0x08 by omega] at hreg
    simp (disch := omega) only [pseudoResolve, operandAt, decodeOperand, if_pos, if_neg, hreg, resolve]
  · rw [show c.toNat % 8 = c.toNat - 0x10 by omega] at hreg
    simp (disch := omega) only [pseudoResolve, operandAt, decodeOperand, if_pos, if_neg, hreg, resolve, nextWord,
      State.advancePc_reg, ofNat_toNat_add_mod]
  · obtain ⟨k, rfl⟩ : ∃ k : Fin 8, c = BitVec.ofNat 6 (0x18 + k) :=
      ⟨⟨c.toNat - 0x18, by omega⟩, BitVec.eq_of_toNat_eq (by simp; omega)⟩
    fin_cases k <;> rfl
  · have hval := inlineLiteral_toNat c h
    simp (disch := omega) only [pseudoResolve, operandAt, decodeOperand, if_neg, hval, resolve]

/-! ### `Compute_op(va, vb)` over naturals is the model's `compute…` over words -/

/-- The spec's `Compute_op`, its numbers reduced to words as the spec's stores reduce them (00_scope.md R9). -/
def pseudoComputed (op : Nat) (va vb : Word) : Computed :=
  let (res, ovNew, cond) := pseudoCompute op va.toNat vb.toNat
  { res := res.map (BitVec.ofNat 16), ovNew := ovNew.map (BitVec.ofNat 16), cond := cond }

theorem word_eq_zero_iff (v : Word) : v = 0 ↔ v.toNat = 0 := by
  rw [← BitVec.toNat_inj]; rfl

theorem pseudoComputed_set : pseudoComputed 0x1 = computeSet := by
  funext va vb
  simp [pseudoComputed, pseudoCompute, computeSet]

theorem pseudoComputed_add : pseudoComputed 0x2 = computeAdd := by
  funext va vb
  simp only [pseudoComputed, pseudoCompute, computeAdd, addOverflow, Option.map_some, ofNat_mod_65536]
  split <;> rfl

theorem pseudoComputed_sub : pseudoComputed 0x3 = computeSub := by
  funext va vb
  simp only [pseudoComputed, pseudoCompute, computeSub, subOverflow, Option.map_some, ofNat_mod_65536]
  split <;> rfl

theorem pseudoComputed_mul : pseudoComputed 0x4 = computeMul := by
  funext va vb
  simp only [pseudoComputed, pseudoCompute, computeMul, mulOverflow, Option.map_some, ofNat_mod_65536,
    Nat.shiftRight_eq_div_pow, Nat.reducePow]

theorem pseudoComputed_div : pseudoComputed 0x5 = computeDiv := by
  funext va vb
  simp only [pseudoComputed, pseudoCompute, computeDiv, divOverflow, word_eq_zero_iff, Nat.shiftLeft_eq, Nat.reducePow]
  split
  · rfl
  · simp only [Option.map_some, ofNat_mod_65536]

theorem pseudoComputed_mod : pseudoComputed 0x6 = computeMod := by
  funext va vb
  simp only [pseudoComputed, pseudoCompute, computeMod, word_eq_zero_iff]
  split <;> rfl

theorem pseudoComputed_shl : pseudoComputed 0x7 = computeShl := by
  funext va vb
  simp only [pseudoComputed, pseudoCompute, computeShl, shlOverflow, Option.map_some, ofNat_mod_65536,
    Nat.shiftLeft_eq, Nat.shiftRight_eq_div_pow, Nat.reducePow]

theorem pseudoComputed_shr : pseudoComputed 0x8 = computeShr := by
  funext va vb
  simp only [pseudoComputed, pseudoCompute, computeShr, shrOverflow, Option.map_some, ofNat_mod_65536,
    Nat.shiftLeft_eq, Nat.shiftRight_eq_div_pow, Nat.reducePow]

theorem pseudoComputed_and : pseudoComputed 0x9 = computeAnd := by
  funext va vb
  simp [pseudoComputed, pseudoCompute, computeAnd, ← BitVec.toNat_and]

theorem pseudoComputed_bor : pseudoComputed 0xA = computeBor := by
  funext va vb
  simp [pseudoComputed, pseudoCompute, computeBor, ← BitVec.toNat_or]

theorem pseudoComputed_xor : pseudoComputed 0xB = computeXor := by
  funext va vb
  simp [pseudoComputed, pseudoCompute, computeXor, ← BitVec.toNat_xor]

theorem pseudoComputed_ife : pseudoComputed 0xC = computeIfe := by
  funext va vb
  simp [pseudoComputed, pseudoCompute, computeIfe, ← BitVec.toNat_inj, beq_eq_decide]

theorem pseudoComputed_ifn : pseudoComputed 0xD = computeIfn := by
  funext va vb
  simp [pseudoComputed, pseudoCompute, computeIfn, ← BitVec.toNat_inj, bne, beq_eq_decide]

theorem pseudoComputed_ifg : pseudoComputed 0xE = computeIfg := rfl

theorem pseudoComputed_ifb : pseudoComputed 0xF = computeIfb := by
  funext va vb
  simp only [pseudoComputed, pseudoCompute, computeIfb, ← BitVec.toNat_and, ne_eq, word_eq_zero_iff, bne, beq_eq_decide,
    decide_not, Option.map_none]

/-! ### Opcodes: what the basic opcode map yields -/

theorem decodeOp_eq_none_iff {op : BitVec 4} : decodeOp op = none ↔ op.toNat = 0 := by
  revert op; decide

theorem toNat_ne_zero_of_decodeOp {op : BitVec 4} {mk : Operand → Operand → Instr} (h : decodeOp op = some mk) :
    op.toNat ≠ 0 := by
  simp [← decodeOp_eq_none_iff, h]

theorem operands_of_decodeOp {op : BitVec 4} {mk : Operand → Operand → Instr} (h : decodeOp op = some mk)
    (a b : Operand) : (mk a b).operands = [a, b] := by
  unfold decodeOp at h
  split at h <;> cases h <;> rfl

/-- Each basic opcode runs the common pattern over the spec's `Compute_op` for its number. -/
theorem exec_of_decodeOp {op : BitVec 4} {mk : Operand → Operand → Instr} (h : decodeOp op = some mk)
    (a b : Operand) (s : State) : exec (mk a b) s = .next (execBasic (pseudoComputed op.toNat) a b s) := by
  unfold decodeOp at h
  split at h <;> cases h <;> rename_i hop <;> rw [hop]
  · rw [pseudoComputed_set, exec, execSet]
  · rw [pseudoComputed_add, exec, execAdd]
  · rw [pseudoComputed_sub, exec, execSub]
  · rw [pseudoComputed_mul, exec, execMul]
  · rw [pseudoComputed_div, exec, execDiv]
  · rw [pseudoComputed_mod, exec, execMod]
  · rw [pseudoComputed_shl, exec, execShl]
  · rw [pseudoComputed_shr, exec, execShr]
  · rw [pseudoComputed_and, exec, execAnd]
  · rw [pseudoComputed_bor, exec, execBor]
  · rw [pseudoComputed_xor, exec, execXor]
  · rw [pseudoComputed_ife, exec, execIfe]
  · rw [pseudoComputed_ifn, exec, execIfn]
  · rw [pseudoComputed_ifg, exec, execIfg]
  · rw [pseudoComputed_ifb, exec, execIfb]

/-! ### The Word Stream: the words `peek` decodes are those `NextWord()` takes -/

/-- Operand B's extra word is the word at `pc` once A is resolved: resolving A moves `pc` past A's extra word and writes no
cell (20_memory.md R71). -/
theorem operandAt_after_resolve (a b : BitVec 6) (s : State) :
    operandAt b (resolve (operandAt a s) s).2 =
      decodeOperand b (if codeTakesWord a then s.cell (s.pc + 1) else s.cell s.pc) := by
  rw [operandAt, resolve_cell, resolve_pc, operandAt, words_decodeOperand]
  split <;> simp

/-- The instruction at `pc` in the basic format, its operands taken from the Word Stream. -/
theorem peek_of_decodeOp {s : State} {mk : Operand → Operand → Instr} (h : decodeOp (opField (s.cell s.pc)) = some mk) :
    peek s =
      let a := operandAt (aField (s.cell s.pc)) s.advancePc
      mk a (operandAt (bField (s.cell s.pc)) (resolve a s.advancePc).2) := by
  have hpc : s.pc + 2 = s.pc + 1 + 1 := by rw [BitVec.add_assoc]; rfl
  simp only [peek, decode, h, operandAt_after_resolve, State.advancePc_cell, State.advancePc_pc, hpc]
  rfl

/-- The instruction at `pc` in the extended format, its operand taken from the Word Stream. -/
theorem peek_of_decodeOp_none {s : State} (h : decodeOp (opField (s.cell s.pc)) = none) :
    peek s = decodeExt (aField (s.cell s.pc)) (operandAt (bField (s.cell s.pc)) s.advancePc) := by
  simp only [peek, decode, h]
  rfl

/-! ### The pseudocode's procedures -/

/-- `SkipInstruction()` (41_execution.md R158). -/
theorem pseudoSkip_eq (s : State) : pseudoSkip s = skipInstruction s := by
  simp only [pseudoSkip, nextWord, ← opField_toNat, ← aField_toNat, ← bField_toNat, pseudoResolve_toNat]
  cases h : decodeOp (opField (s.cell s.pc)) with
  | none =>
    rw [if_pos (decodeOp_eq_none_iff.mp h), skipInstruction, fetch_fst, fetch_snd, peek_of_decodeOp_none h]
    unfold decodeExt
    split <;> rfl
  | some mk =>
    rw [if_neg (toNat_ne_zero_of_decodeOp h), skipInstruction, fetch_fst, fetch_snd, peek_of_decodeOp h, operands_of_decodeOp h]
    rfl

/-- The pseudocode's `if isCond and not cond`, as one test of the model's `cond` (41_execution.md R154). -/
theorem skipIfFalse_eq (c : Computed) (s : State) :
    skipIfFalse c s = if c.cond = some false then skipInstruction s else s := by
  obtain ⟨res, ovNew, _ | _ | _⟩ := c <;> rfl

/-- `ExecBasic(op, a, b)` (41_execution.md R154, R157). -/
theorem pseudoBasic_toNat (op : Nat) (a b : BitVec 6) (s : State) :
    pseudoBasic op a.toNat b.toNat s =
      execBasic (pseudoComputed op) (operandAt a s) (operandAt b (resolve (operandAt a s) s).2) s := by
  simp only [pseudoBasic, execBasic, resolveBoth, pseudoResolve_toNat, pseudoComputed, pseudoSkip_eq]
  obtain ⟨res, ovNew, cond⟩ := pseudoCompute op _ _
  cases res <;> cases ovNew <;> simp only [writeBack, updateOv, skipIfFalse_eq, Option.map_some, Option.map_none]

/-- `ExecJSR(b)` and, under the policy `nop`, `ExecUnknownExt(sel, b)`, told apart by the selector (45_extended.md R250,
R251). -/
theorem exec_decodeExt (sel b : BitVec 6) (s : State) :
    exec (decodeExt sel (operandAt b s)) s =
      .next (if sel.toNat = 1 then pseudoJsr b.toNat s else pseudoUnknownExt b.toNat s) := by
  have hsel : sel.toNat = 1 ↔ sel = jsrSelector := by rw [← BitVec.toNat_inj]; rfl
  simp only [pseudoJsr, pseudoUnknownExt, pseudoResolve_toNat, hsel, decodeExt]
  split <;> rfl

/-! ### The statements -/

/-- A step executes the instruction at `pc`, with the outputs cleared and `pc` past its first word (41_execution.md R150). -/
theorem step_eq (s : State) : step s = exec (peek s.clearDiag) s.clearDiag.advancePc := rfl

/-- Settles O17: in either format the operands are those of the Word Stream, and the procedure of the pseudocode is the
model's meaning of the instruction. -/
theorem stepFollowsThePseudocode : Obligations.StepFollowsThePseudocode := by
  intro s
  rw [step_eq]
  simp only [pseudoStep, nextWord, ← opField_toNat, ← aField_toNat, ← bField_toNat]
  generalize s.clearDiag = t
  cases h : decodeOp (opField (t.cell t.pc)) with
  | none => rw [if_pos (decodeOp_eq_none_iff.mp h), peek_of_decodeOp_none h, exec_decodeExt]
  | some mk =>
    rw [if_neg (toNat_ne_zero_of_decodeOp h), peek_of_decodeOp h, exec_of_decodeOp h, pseudoBasic_toNat]

/-- No instruction stops the machine under the configured policy (41_execution.md R162). -/
theorem exec_completes (i : Instr) (s : State) : ∃ t, exec i s = .next t := by
  cases i <;> exact ⟨_, rfl⟩

theorem step_completes (s : State) : ∃ t, step s = .next t := exec_completes _ _

/-- The policy does not matter to a step at an instruction that is not an unknown extended one. -/
theorem stepUnder_of_known {s : State} (h : (peek s).isUnknownExt = false) (policy : Config.UnknownExtPolicy) :
    stepUnder policy s = step s :=
  execUnder_of_known h policy _

/-- Settles O53: `step` completes and is the step under `nop`; under `fault` the step differs from it exactly at an unknown
extended instruction. -/
theorem policyDecidesOnlyUnknownExtended : Obligations.PolicyDecidesOnlyUnknownExtended := by
  intro s
  obtain ⟨t, ht⟩ := step_completes s
  have hnop : stepUnder .nop s = step s := stepUnder_config s
  refine ⟨fun policy h => ?_, hnop, ⟨t, hnop.trans ht⟩, ?_⟩
  · have hknown := stepUnder_of_known h policy
    exact ⟨hknown, t, hknown.trans ht⟩
  · rw [stepUnder_fault, ht]
    split <;> simp [*]

end Sys2Proof.Machine
end

section
/-!
SUPPORT. The statements about the state (10_state.md): the memory invariant, what a step can change, `pc` at the operands,
and the state after reset.
-/

namespace Sys2Proof.Machine

open Sys2Proof.Claims

/-! ### What an execution can do -/

/-- An instruction with two operands is one of the basic opcode map (30_encoding.md R97). -/
theorem decodeOp_opcode {i : Instr} {a b : Operand} (h : i.operands = [a, b]) :
    ∃ mk, decodeOp i.opcode = some mk ∧ i = mk a b := by
  cases i with
  | jsr | unknownExt => cases h
  | _ => cases h; exact ⟨_, rfl, rfl⟩

/-- An execution is the common pattern of the basic opcodes, JSR's push and jump, or the decode of an unknown extended
instruction's operand (41_execution.md R152). -/
theorem exec_cases {i : Instr} {s t : State} (h : exec i s = .next t) :
    (∃ a b, i.operands = [a, b] ∧ t = execBasic (pseudoComputed i.opcode.toNat) a b s) ∨
    (∃ b, i = .jsr b ∧
      t = (push (resolve b s).2.pc (resolve b s).2).setPc (readLoc (resolve b s).1 (resolve b s).2)) ∨
    ∃ sel b, i = .unknownExt sel b ∧ t = (resolve b s).2.signalUnknownExt := by
  have basic {a b : Operand} (hops : i.operands = [a, b]) :
      ∃ a b, i.operands = [a, b] ∧ t = execBasic (pseudoComputed i.opcode.toNat) a b s := by
    obtain ⟨mk, hmk, hi⟩ := decodeOp_opcode hops
    refine ⟨a, b, hops, ?_⟩
    have := exec_of_decodeOp hmk a b s
    rw [← hi, h] at this
    exact Host.Outcome.next.inj this
  cases i with
  | jsr b => cases h; exact .inr (.inl ⟨b, rfl, rfl⟩)
  | unknownExt sel b => cases h; exact .inr (.inr ⟨sel, b, rfl, rfl⟩)
  | _ => exact .inl (basic rfl)

/-- A step executes the instruction at `pc`, whatever the outputs of the last step were (41_execution.md R150). -/
theorem exec_peek_of_step {s t : State} (h : step s = .next t) : exec (peek s) s.clearDiag.advancePc = .next t := h

/-- The location of an operand does not depend on the diagnostic outputs. -/
theorem resolve_clearDiag_advancePc_fst (opd : Operand) (s : State) :
    (resolve opd s.clearDiag.advancePc).1 = (resolve opd s.advancePc).1 := by
  cases opd <;> rfl

/-! ### The common pattern, field by field (41_execution.md R154, R157) -/

theorem writeBack_reg (ra : Resolved) (c : Computed) (s : State) (r : Reg) :
    (writeBack ra c s).reg r = if ra = .reg r then c.res.getD (s.reg r) else s.reg r := by
  obtain ⟨_ | v, ovNew, cond⟩ := c
  · simp [writeBack]
  · exact writeLoc_reg ra v s r

theorem writeBack_ov (ra : Resolved) (c : Computed) (s : State) :
    (writeBack ra c s).ov = if ra = .spec .ov then c.res.getD s.ov else s.ov := by
  obtain ⟨_ | v, ovNew, cond⟩ := c
  · simp [writeBack]
  · exact writeLoc_ov ra v s

theorem writeBack_cell (ra : Resolved) (c : Computed) (s : State) (q : Word) :
    (writeBack ra c s).cell q = if ra = .mem q then c.res.getD (s.cell q) else s.cell q := by
  obtain ⟨_ | v, ovNew, cond⟩ := c
  · simp [writeBack]
  · exact writeLoc_cell ra v s q

theorem writeBack_mem_wf {s : State} (h : s.mem.wf = true) (ra : Resolved) (c : Computed) :
    (writeBack ra c s).mem.wf = true := by
  obtain ⟨_ | v, ovNew, cond⟩ := c
  · exact h
  · exact writeLoc_mem_wf h ra v

theorem updateOv_ov (c : Computed) (s : State) : (updateOv c s).ov = c.ovNew.getD s.ov := by
  obtain ⟨res, _ | v, cond⟩ := c <;> rfl

@[simp] theorem updateOv_regs (c : Computed) (s : State) : (updateOv c s).regs = s.regs := by
  obtain ⟨res, _ | v, cond⟩ := c <;> rfl

@[simp] theorem updateOv_mem (c : Computed) (s : State) : (updateOv c s).mem = s.mem := by
  obtain ⟨res, _ | v, cond⟩ := c <;> rfl

@[simp] theorem skipIfFalse_ov (c : Computed) (s : State) : (skipIfFalse c s).ov = s.ov := by
  rw [skipIfFalse_eq]; split <;> simp

@[simp] theorem skipIfFalse_regs (c : Computed) (s : State) : (skipIfFalse c s).regs = s.regs := by
  rw [skipIfFalse_eq]; split <;> simp

@[simp] theorem skipIfFalse_mem (c : Computed) (s : State) : (skipIfFalse c s).mem = s.mem := by
  rw [skipIfFalse_eq]; split <;> simp

section
variable (f : Word → Word → Computed) (a b : Operand) (s : State)

/-- A general register changes only as A, and only if there is a result. -/
theorem execBasic_reg (r : Reg) :
    (execBasic f a b s).reg r =
      if a = .reg r then (f (valA a b s) (valB a b s)).res.getD (s.reg r) else s.reg r := by
  have h := writeBack_reg (resolve a s).1 (f (valA a b s) (valB a b s)) (decoded a b s) r
  simp only [resolve_eq_reg, decoded, resolveBoth_state, resolve_reg] at h
  rw [← h, State.reg, State.reg, execBasic, skipIfFalse_regs, updateOv_regs]
  rfl

/-- `ov` takes the new overflow value if there is one, else the result if A is O. -/
theorem execBasic_ov :
    (execBasic f a b s).ov =
      (f (valA a b s) (valB a b s)).ovNew.getD
        (if a = .o then (f (valA a b s) (valB a b s)).res.getD s.ov else s.ov) := by
  have h := writeBack_ov (resolve a s).1 (f (valA a b s) (valB a b s)) (decoded a b s)
  simp only [resolve_eq_ov, decoded, resolveBoth_state, resolve_ov] at h
  rw [← h, execBasic, skipIfFalse_ov, updateOv_ov]
  rfl

/-- A memory cell changes only as the one A resolves to, and only if there is a result. -/
theorem execBasic_cell (q : Word) :
    (execBasic f a b s).cell q =
      if (resolve a s).1 = .mem q then (f (valA a b s) (valB a b s)).res.getD (s.cell q) else s.cell q := by
  have h := writeBack_cell (resolve a s).1 (f (valA a b s) (valB a b s)) (decoded a b s) q
  simp only [decoded, resolveBoth_state, resolve_cell] at h
  rw [← h, State.cell, State.cell, execBasic, skipIfFalse_mem, updateOv_mem]
  rfl

/-- The common pattern keeps memory in canonical form. -/
theorem execBasic_mem_wf (h : s.mem.wf = true) : (execBasic f a b s).mem.wf = true := by
  rw [execBasic, skipIfFalse_mem, updateOv_mem]
  refine writeBack_mem_wf ?_ _ _
  rwa [resolveBoth_state, resolve_mem, resolve_mem]

end

/-! ### Memory stays in canonical form -/

/-- An execution keeps memory in canonical form: it writes through A, pushes, or writes nothing. -/
theorem exec_keeps_inv {i : Instr} {s t : State} (hs : s.Inv) (h : exec i s = .next t) : t.Inv := by
  unfold State.Inv at hs ⊢
  obtain ⟨a, b, -, rfl⟩ | ⟨b, -, rfl⟩ | ⟨sel, b, -, rfl⟩ := exec_cases h
  · exact execBasic_mem_wf _ a b s hs
  · refine writeMem_wf ?_ _ _
    rwa [State.lowerSp_mem, resolve_mem]
  · rwa [State.signalUnknownExt_mem, resolve_mem]

/-- Settles O44: memory changes by writes of single cells alone, and each keeps the form. -/
theorem stepKeepsMemoryCanonical : Obligations.StepKeepsMemoryCanonical :=
  fun s _ hs h => exec_keeps_inv (s := s.clearDiag.advancePc) hs (exec_peek_of_step h)

/-! ### What a step can change -/

/-- Of the basic opcodes only those that write back have a result. -/
theorem writesBack_of_res {i : Instr} {a b : Operand} {va vb : Word} (h : i.operands = [a, b])
    (hres : (pseudoComputed i.opcode.toNat va vb).res ≠ none) : i.writesBack = some (a, b) := by
  cases i with
  | ife | ifn | ifg | ifb => exact absurd rfl hres
  | jsr | unknownExt => cases h
  | _ => cases h; rfl

/-- Of the basic opcodes only the six of 10_state.md R37 have a new value for `ov`. -/
theorem updatesOv_of_ovNew {i : Instr} {a b : Operand} {va vb : Word} (h : i.operands = [a, b])
    (hov : (pseudoComputed i.opcode.toNat va vb).ovNew ≠ none) : i.updatesOv = true := by
  cases i with
  | set | mod | and | bor | xor | ife | ifn | ifg | ifb => exact absurd rfl hov
  | jsr | unknownExt => cases h
  | _ => rfl

theorem ne_none_or_ne_of_getD_ne {α : Type} {o : Option α} {x d : α} (h : o.getD x ≠ d) : o ≠ none ∨ x ≠ d := by
  cases o with
  | none => exact .inr h
  | some v => exact .inl nofun

theorem ne_none_of_getD_ne {α : Type} {o : Option α} {d : α} (h : o.getD d ≠ d) : o ≠ none :=
  (ne_none_or_ne_of_getD_ne h).resolve_right (absurd rfl)

/-- Settles O43: the common pattern changes a slot only by its result or its new `ov`, JSR only the cell it pushes to, and
an unknown extended instruction none. -/
theorem stepChangesOnlyWhatItsInstructionNames : Obligations.StepChangesOnlyWhatItsInstructionNames := by
  intro s t h
  obtain ⟨a, b, hops, rfl⟩ | ⟨b, hi, rfl⟩ | ⟨sel, b, hi, rfl⟩ := exec_cases (exec_peek_of_step h)
  · refine ⟨fun r hr => ?_, fun hov => ?_, fun q hq => .inl ⟨a, b, ?_⟩⟩
    · rw [execBasic_reg] at hr
      obtain ⟨rfl, hres⟩ := ite_ne_right_iff.mp hr
      exact ⟨b, writesBack_of_res hops (ne_none_of_getD_ne hres)⟩
    · rw [execBasic_ov] at hov
      obtain hnew | hdest := ne_none_or_ne_of_getD_ne hov
      · exact .inl (updatesOv_of_ovNew hops hnew)
      · obtain ⟨rfl, hres⟩ := ite_ne_right_iff.mp hdest
        exact .inr ⟨b, writesBack_of_res hops (ne_none_of_getD_ne hres)⟩
    · rw [execBasic_cell] at hq
      obtain ⟨hloc, hres⟩ := ite_ne_right_iff.mp hq
      exact ⟨writesBack_of_res hops (ne_none_of_getD_ne hres), by rwa [← resolve_clearDiag_advancePc_fst]⟩
  · refine ⟨by simp [push], by simp [push], fun q hq => .inr ⟨b, hi, ?_⟩⟩
    simp only [push, State.setPc_cell, State.setCell_cell, State.lowerSp_cell, resolve_cell] at hq
    simpa using (ite_ne_right_iff.mp hq).1
  · simp

/-! ### `pc` at the operands -/

/-- `e(c)` over a raw code is the model's. -/
theorem extra_toNat (c : BitVec 6) : extra c.toNat = extraWords c := by
  revert c; decide

/-- `L(w)` over the raw fields of a word is the model's (30_encoding.md R94). -/
theorem lengthOf_eq_wordLength (w : Word) : lengthOf w = wordLength w := by
  have hop : opField w = 0 ↔ w.toNat % 16 = 0 := by rw [← opField_toNat, ← BitVec.toNat_inj]; rfl
  rw [lengthOf, wordLength, ← aField_toNat, ← bField_toNat, extra_toNat, extra_toNat, ite_not]
  simp only [hop]

theorem words_length_decodeOperand (c : BitVec 6) (n : Word) : (decodeOperand c n).words.length = extraWords c := by
  rw [← extraWords_code, code_decodeOperand]

/-- The words of the decoded operands and the first word make up the instruction's length (30_encoding.md R94, R95). -/
theorem wordLength_eq_operands_length (w n₁ n₂ : Word) :
    wordLength w = 1 + ((decode w n₁ n₂).operands.flatMap Operand.words).length := by
  have hop : opField w = 0 ↔ decodeOp (opField w) = none := by rw [decodeOp_eq_none_iff, ← BitVec.toNat_inj]; rfl
  rw [wordLength, decode]
  cases h : decodeOp (opField w) with
  | none =>
    rw [if_pos (hop.mpr h)]
    simp only [decodeExt]
    split <;> simp [Instr.operands, words_length_decodeOperand]
  | some mk =>
    rw [if_neg (by rw [hop, h]; nofun)]
    simp [operands_of_decodeOp h, words_length_decodeOperand, Nat.add_assoc]

/-- Once all operands of the instruction at `pc` are decoded, `pc` is the address of the next instruction
(10_state.md R34). -/
theorem passOver_operands_pc (s : State) :
    (passOver (peek s).operands s.advancePc).pc = s.pc + BitVec.ofNat 16 (lengthOf (s.cell s.pc)) := by
  rw [passOver_pc, State.advancePc_pc, lengthOf_eq_wordLength,
    wordLength_eq_operands_length _ (s.cell (s.pc + 1)) (s.cell (s.pc + 2)), BitVec.ofNat_add, ← BitVec.add_assoc]
  rfl

/-- Settles O12: an operand PC resolves to `pc` itself, which both decodes have moved past the instruction's words. -/
theorem operandPcReadsTheNextInstruction : Obligations.OperandPcReadsTheNextInstruction := by
  intro s a b hops
  have hpc := passOver_operands_pc s
  rw [hops] at hpc
  refine ⟨hpc, ?_, ?_⟩
  · rintro rfl
    exact hpc
  · rintro rfl
    exact hpc

/-! ### The state after reset -/

/-- `reset(image)` creates the reset state with the image loaded, for an image that fits. -/
theorem resetImage_eq_some_iff {image : List Word} {s : State} :
    resetImage image = some s ↔
      image.length ≤ Config.memWords ∧ s = { State.reset with mem := loadFrom 0 image [] } := by
  rw [resetImage, Option.ite_none_right_eq_some, Option.some.injEq, eq_comm (a := s)]

/-- After reset each cell holds its word of the image, or 0x0000 past it (10_state.md R46). -/
theorem resetImage_cell {image : List Word} {s : State} (h : resetImage image = some s) (a : Word) :
    s.cell a = image.getD a.toNat 0 := by
  obtain ⟨hlen, rfl⟩ := resetImage_eq_some_iff.mp h
  rw [State.cell, readMem_loadFrom _ _ _ _ (by omega), readMem_nil]
  split
  · rfl
  · rw [List.getD_eq_default _ _ (by omega)]

/-- Settles O45: an image is loaded by writes of single cells, from a memory without entries. -/
theorem resetMemoryIsCanonical : Obligations.ResetMemoryIsCanonical := by
  refine ⟨reset_mem_wf, fun image s h => ?_⟩
  obtain ⟨-, rfl⟩ := resetImage_eq_some_iff.mp h
  exact loadFrom_wf reset_mem_wf 0 image

theorem reset_reg (r : Reg) : State.reset.reg r = 0 := by cases r <;> rfl

/-- Settles O46: the fields but memory are those of `State.reset`, and memory is the image and 0x0000 past it. -/
theorem resetGivesEveryFieldItsValue : Obligations.ResetGivesEveryFieldItsValue := by
  intro image hlen
  have h := resetImage_eq_some_iff.mpr ⟨hlen, rfl⟩
  refine ⟨_, h, rfl, rfl, rfl, reset_reg, fun k hk => ?_, fun a ha => ?_, rfl, rfl⟩
  · rw [resetImage_cell h, BitVec.toNat_ofNat, Nat.mod_eq_of_lt (by omega), List.getD_eq_getElem _ _ hk]
  · rw [resetImage_cell h, List.getD_eq_default _ _ ha]

theorem resetImage_pc {image : List Word} {s : State} (h : resetImage image = some s) : s.pc = 0x0000 := by
  obtain ⟨-, rfl⟩ := resetImage_eq_some_iff.mp h
  rfl

theorem resetImage_sp {image : List Word} {s : State} (h : resetImage image = some s) : s.sp = 0xFFFF := by
  obtain ⟨-, rfl⟩ := resetImage_eq_some_iff.mp h
  rfl

/-- The first instruction after reset is the one the image starts with (70_reset_and_hazards.md R301). -/
theorem peek_resetImage {w v : Word} {rest : List Word} {s : State} (h : resetImage (w :: v :: rest) = some s) :
    peek s = decode w v (rest.getD 0 0) := by
  simp only [peek, resetImage_pc h, resetImage_cell h]
  rfl

/-- `SET PUSH, v` stores `v` below `sp`, where `sp` goes. -/
theorem exec_set_push_next (v : Word) (s : State) :
    exec (.set .push (.next v)) s = .next (s.lowerSp.advancePc.setCell (s.sp - 1) v) := rfl

/-- `JSR v` pushes the address after its extra word and goes to `v`. -/
theorem exec_jsr_next (v : Word) (s : State) :
    exec (.jsr (.next v)) s = .next ((push (s.pc + 1) s.advancePc).setPc v) := rfl

/-- Settles O48: `sp` falls from 0xFFFF to 0xFFFE, and the word goes to the cell there. -/
theorem firstPushAfterResetWritesFFFE : Obligations.FirstPushAfterResetWritesFFFE := by
  intro rest s v
  refine ⟨fun h => ?_, fun h => ?_⟩
  · have hpeek : peek s = .set .push (.next v) := peek_resetImage h
    refine ⟨_, by rw [step_eq, peek_clearDiag, hpeek, exec_set_push_next], ?_, ?_, ?_⟩ <;>
      simp [resetImage_pc h, resetImage_sp h]
  · have hpeek : peek s = .jsr (.next v) := peek_resetImage h
    refine ⟨_, by rw [step_eq, peek_clearDiag, hpeek, exec_jsr_next], ?_, ?_, ?_⟩ <;>
      simp [push, resetImage_pc h, resetImage_sp h]

/-! ### The diagnostic outputs -/

/-- Settles O52: a step clears both outputs before it looks at anything. -/
theorem stepIgnoresTheDiagnosticOutputs : Obligations.StepIgnoresTheDiagnosticOutputs :=
  fun _ _ => ⟨rfl, rfl⟩

end Sys2Proof.Machine
end

section
/-!
SUPPORT. The statements about memory (20_memory.md): a store is seen by the next instruction's load (R71) and by the next
instruction's fetch (R74).
-/

namespace Sys2Proof.Machine

open Sys2Proof.Claims

/-- `SET [n], v` passes its two extra words and stores `v` at `n`. -/
theorem exec_set_abs_next (n v : Word) (s : State) :
    exec (.set (.abs n) (.next v)) s = .next (s.advancePc.advancePc.setCell n v) := rfl

/-- `SET r, [n]` passes its extra word and loads the cell at `n` into `r`. -/
theorem exec_set_reg_abs (r : Reg) (n : Word) (s : State) :
    exec (.set (.reg r) (.abs n)) s = .next (s.advancePc.setReg r (s.cell n)) := rfl

/-- A store at `pc` changes the first word of the instruction there, and neither of the two words after it. -/
theorem peek_setCell_pc (v : Word) (s : State) :
    peek (s.setCell s.pc v) = decode v (s.cell (s.pc + 1)) (s.cell (s.pc + 2)) := by
  simp [peek]

/-- Settles O50: the step moves `pc` to `p + 3` and stores there alone, so the fetch decodes `v` and the two words that
already stood after it. -/
theorem storeToTheNextInstructionIsFetched : Obligations.StoreToTheNextInstructionIsFetched := by
  intro s t v hpeek hstep
  have hexec := exec_peek_of_step hstep
  rw [hpeek, exec_set_abs_next] at hexec
  cases hexec
  have hpc : s.clearDiag.advancePc.advancePc.advancePc.pc = s.pc + 3 := by simp [BitVec.add_assoc]
  refine ⟨hpc, ?_⟩
  rw [← hpc, peek_setCell_pc, hpc]
  simp [BitVec.add_assoc]

/-- Settles O49: the load reads the cell the store wrote, and writes none itself. -/
theorem loadReturnsTheWordStored : Obligations.LoadReturnsTheWordStored := by
  intro s t n v r hstore
  rw [exec_set_abs_next] at hstore
  cases hstore
  refine ⟨_, exec_set_reg_abs r n _, ?_, fun q hq => ?_⟩
  · simp
  · simp [hq]

end Sys2Proof.Machine
end

section
/-!
SUPPORT. The statements about the encoding (30_encoding.md): the instruction word and its fields, the extra words, and the
round trips of the decoder and the encoder.
-/

namespace Sys2Proof.Machine

open Sys2Proof.Claims

/-! ### The instruction word -/

theorem opcode_of_decodeOp {op : BitVec 4} {mk : Operand → Operand → Instr} (h : decodeOp op = some mk) (a b : Operand) :
    (mk a b).opcode = op := by
  unfold decodeOp at h
  split at h <;> cases h <;> rename_i hop <;> exact BitVec.eq_of_toNat_eq hop.symm

/-- The instruction word in the basic format (30_encoding.md R90, R92). -/
theorem firstWord_of_operands {i : Instr} {a b : Operand} (h : i.operands = [a, b]) :
    i.firstWord = packWord b.code a.code i.opcode := by
  cases i with
  | jsr | unknownExt => cases h
  | _ => cases h; rfl

/-- The instruction word in the extended format (30_encoding.md R91, R92). -/
theorem firstWord_decodeExt (sel : BitVec 6) (b : Operand) : (decodeExt sel b).firstWord = packWord b.code sel 0 := by
  unfold decodeExt
  split
  · next hsel => rw [hsel]; rfl
  · rfl

theorem operands_decodeExt (sel : BitVec 6) (b : Operand) : (decodeExt sel b).operands = [b] := by
  unfold decodeExt
  split <;> rfl

theorem wellFormed_of_operands {i : Instr} {a b : Operand} (h : i.operands = [a, b]) : i.wellFormed = true := by
  cases i with
  | jsr | unknownExt => cases h
  | _ => rfl

theorem wellFormed_decodeExt (sel : BitVec 6) (b : Operand) : (decodeExt sel b).wellFormed = true := by
  unfold decodeExt
  split
  · rfl
  · next hsel => exact bne_iff_ne.mpr hsel

/-- A well-formed instruction is in the basic format or in the extended one (30_encoding.md R99). -/
theorem operands_pair_or_decodeExt {i : Instr} (h : i.wellFormed = true) :
    (∃ a b, i.operands = [a, b]) ∨ ∃ sel b, i = decodeExt sel b := by
  cases i with
  | jsr b => exact .inr ⟨jsrSelector, b, rfl⟩
  | unknownExt sel b => exact .inr ⟨sel, b, (if_neg (bne_iff_ne.mp h)).symm⟩
  | _ => exact .inl ⟨_, _, rfl⟩

/-! ### The two formats of a word -/

theorem opField_eq_zero_iff {w : Word} : opField w = 0 ↔ w.toNat % 16 = 0 := by
  rw [← opField_toNat, ← BitVec.toNat_inj]; rfl

theorem decodeOp_opField_eq_none_iff {w : Word} : decodeOp (opField w) = none ↔ w.toNat % 16 = 0 := by
  rw [decodeOp_eq_none_iff, opField_toNat]

theorem exists_decodeOp_of_ne_zero {w : Word} (h : w.toNat % 16 ≠ 0) : ∃ mk, decodeOp (opField w) = some mk :=
  Option.ne_none_iff_exists'.mp (mt decodeOp_opField_eq_none_iff.mp h)

theorem decode_basic {w : Word} {mk : Operand → Operand → Instr} (h : decodeOp (opField w) = some mk) (n₁ n₂ : Word) :
    decode w n₁ n₂ = mk (decodeOperand (aField w) n₁)
      (decodeOperand (bField w) (if codeTakesWord (aField w) then n₂ else n₁)) := by
  rw [decode, h]

theorem decode_extended {w : Word} (h : w.toNat % 16 = 0) (n₁ n₂ : Word) :
    decode w n₁ n₂ = decodeExt (aField w) (decodeOperand (bField w) n₁) := by
  rw [decode, decodeOp_opField_eq_none_iff.mpr h]

/-- A decoded instruction has the word it was decoded from. -/
theorem firstWord_decode (w n₁ n₂ : Word) : (decode w n₁ n₂).firstWord = w := by
  by_cases h : w.toNat % 16 = 0
  · rw [decode_extended h, firstWord_decodeExt, code_decodeOperand, ← opField_eq_zero_iff.mpr h, packWord_fields]
  · obtain ⟨mk, hmk⟩ := exists_decodeOp_of_ne_zero h
    rw [decode_basic hmk, firstWord_of_operands (operands_of_decodeOp hmk _ _), opcode_of_decodeOp hmk,
      code_decodeOperand, code_decodeOperand, packWord_fields]

theorem wellFormed_decode (w n₁ n₂ : Word) : (decode w n₁ n₂).wellFormed = true := by
  by_cases h : w.toNat % 16 = 0
  · rw [decode_extended h, wellFormed_decodeExt]
  · obtain ⟨mk, hmk⟩ := exists_decodeOp_of_ne_zero h
    rw [decode_basic hmk, wellFormed_of_operands (operands_of_decodeOp hmk _ _)]

/-- Settles O4: the decoder takes the fields, and each operand has the code it was decoded from. -/
theorem instructionWordFields : Obligations.InstructionWordFields := by
  intro w n₁ n₂
  refine ⟨fun h => ?_, fun h => ⟨decodeOperand (bField w) n₁, ?_, ?_⟩⟩
  · obtain ⟨mk, hmk⟩ := exists_decodeOp_of_ne_zero h
    rw [decode_basic hmk, opcode_of_decodeOp hmk, operands_of_decodeOp hmk]
    simp only [List.map_cons, List.map_nil, code_decodeOperand, opField_toNat, aField_toNat, bField_toNat, and_self]
  · rw [code_decodeOperand, bField_toNat]
  · rw [decode_extended h, ← aField_toNat]
    by_cases hsel : aField w = jsrSelector
    · exact .inl ⟨congrArg BitVec.toNat hsel, if_pos hsel⟩
    · exact .inr ⟨aField w, fun hone => hsel (BitVec.eq_of_toNat_eq hone), rfl, if_neg hsel⟩

/-- Settles O5: the opcode field picks the row of the table. -/
theorem basicOpcodeMap : Obligations.BasicOpcodeMap := by
  intro k mk hmem w n₁ n₂ hw
  have hop : opField w = BitVec.ofNat 4 k := BitVec.eq_of_toNat_eq (by rw [opField_toNat, hw, BitVec.toNat_ofNat]; omega)
  have hmk : decodeOp (opField w) = some mk := by
    rw [hop]
    fin_cases hmem <;> rfl
  exact ⟨_, _, decode_basic hmk n₁ n₂⟩

/-- Settles O6: the selector decides between the two extended instructions, and no instruction stops the machine. -/
theorem everyWordIsAnInstructionThatRuns : Obligations.EveryWordIsAnInstructionThatRuns := by
  intro w n₁ n₂
  refine ⟨fun h hsel => ⟨decodeOperand (bField w) n₁, ?_⟩, fun h hsel => ⟨decodeOperand (bField w) n₁, ?_⟩, rfl, exec_completes _⟩
  · rw [decode_extended h]
    rw [← aField_toNat] at hsel
    exact if_pos (BitVec.eq_of_toNat_eq hsel)
  · rw [← aField_toNat] at hsel ⊢
    rw [decode_extended h, BitVec.ofNat_toNat, BitVec.setWidth_eq]
    exact if_neg (fun hjsr => hsel (congrArg BitVec.toNat hjsr))

/-! ### The extra words -/

theorem extraWords_le_one (c : BitVec 6) : extraWords c ≤ 1 := by
  unfold extraWords
  split <;> omega

/-- An operand's words are as many of the Word Stream as its code takes (30_encoding.md R93). -/
theorem words_decodeOperand_eq_take (c : BitVec 6) (n : Word) :
    (decodeOperand c n).words = [n].take (extraWords c) := by
  rw [words_decodeOperand, extraWords]
  split <;> rfl

/-- Operand B's extra word is the first one that operand A leaves (30_encoding.md R94). -/
theorem words_decodeOperand_eq_take_drop (a b : BitVec 6) (n₁ n₂ : Word) :
    (decodeOperand b (if codeTakesWord a then n₂ else n₁)).words =
      ([n₁, n₂].drop (extraWords a)).take (extraWords b) := by
  rw [words_decodeOperand_eq_take, extraWords, extraWords]
  split <;> split <;> rfl

theorem map_words_decode_extended {w : Word} (h : w.toNat % 16 = 0) (n₁ n₂ : Word) :
    (decode w n₁ n₂).operands.map Operand.words = [[n₁].take (extraWords (bField w))] := by
  rw [decode_extended h, operands_decodeExt, List.map_singleton, words_decodeOperand_eq_take]

theorem map_words_decode_basic {w : Word} (h : w.toNat % 16 ≠ 0) (n₁ n₂ : Word) :
    (decode w n₁ n₂).operands.map Operand.words =
      [[n₁].take (extraWords (aField w)), ([n₁, n₂].drop (extraWords (aField w))).take (extraWords (bField w))] := by
  obtain ⟨mk, hmk⟩ := exists_decodeOp_of_ne_zero h
  rw [decode_basic hmk, operands_of_decodeOp hmk, List.map_cons, List.map_singleton, words_decodeOperand_eq_take,
    words_decodeOperand_eq_take_drop]

theorem wordLength_extended {w : Word} (h : w.toNat % 16 = 0) : wordLength w = 1 + extraWords (bField w) :=
  if_pos (opField_eq_zero_iff.mpr h)

theorem wordLength_basic {w : Word} (h : w.toNat % 16 ≠ 0) :
    wordLength w = 1 + extraWords (aField w) + extraWords (bField w) :=
  if_neg (mt opField_eq_zero_iff.mp h)

/-- Every instruction is one to three words long (30_encoding.md R94). -/
theorem wordLength_bounds (w : Word) : 1 ≤ wordLength w ∧ wordLength w ≤ 3 := by
  have ha := extraWords_le_one (aField w)
  have hb := extraWords_le_one (bField w)
  rw [wordLength]
  split <;> omega

theorem take_singleton_eq_take_pair {k : Nat} (h : k ≤ 1) (n₁ n₂ : Word) : [n₁].take k = [n₁, n₂].take k := by
  interval_cases k <;> rfl

/-- A decoded instruction encodes to its first word and as many of the following words as its length says
(30_encoding.md R94). -/
theorem encode_decode (w n₁ n₂ : Word) : encode (decode w n₁ n₂) = w :: [n₁, n₂].take (wordLength w - 1) := by
  rw [encode, firstWord_decode, List.flatMap_def]
  by_cases h : w.toNat % 16 = 0
  · rw [map_words_decode_extended h, wordLength_extended h, Nat.add_sub_cancel_left, List.flatten_singleton,
      take_singleton_eq_take_pair (extraWords_le_one _) n₁ n₂]
  · rw [map_words_decode_basic h, wordLength_basic h, Nat.add_assoc, Nat.add_sub_cancel_left, List.take_add,
      List.flatten_cons, List.flatten_singleton, take_singleton_eq_take_pair (extraWords_le_one _) n₁ n₂]

/-- Settles O3: the lengths over raw codes are the decoder's, and each operand code takes at most one word. -/
theorem instructionLengthAndExtraWords : Obligations.InstructionLengthAndExtraWords := by
  intro w n₁ n₂
  obtain ⟨hpos, hle⟩ := wordLength_bounds w
  have hb := extraWords_le_one (bField w)
  simp only [lengthOf_eq_wordLength, ← aField_toNat, ← bField_toNat, extra_toNat]
  refine ⟨encode_decode w n₁ n₂, trivial, hpos, hle, fun h => ⟨?_, map_words_decode_extended h n₁ n₂⟩,
    fun h => map_words_decode_basic h n₁ n₂⟩
  rw [wordLength_extended h]
  omega

/-! ### The round trips -/

theorem decodeWords_cons_eq_ok_iff {w : Word} {ws rest : List Word} {i : Instr} :
    decodeWords (w :: ws) = .ok (i, rest) ↔
      wordLength w ≤ ws.length + 1 ∧ decode w (ws.getD 0 0) (ws.getD 1 0) = i ∧ ws.drop (wordLength w - 1) = rest := by
  rw [decodeWords]
  split
  · next h => simp [Nat.not_le.mpr h]
  · next h => simp [Nat.not_lt.mp h]

/-- The two words at hand are those of the list, as far as the list has them. -/
theorem take_getD_pair {k : Nat} {ws : List Word} (hk : k ≤ 2) (hlen : k ≤ ws.length) :
    [ws.getD 0 0, ws.getD 1 0].take k = ws.take k := by
  rcases ws with _ | ⟨n₁, _ | ⟨n₂, ws⟩⟩
  · obtain rfl := Nat.le_zero.mp hlen
    rfl
  · exact (take_singleton_eq_take_pair hlen n₁ 0).symm
  · exact (List.take_append_of_le_length (l₁ := [n₁, n₂]) hk).symm

/-- Settles O2: the decoder takes from the list the words the instruction encodes to, and leaves the others. -/
theorem encodeOfDecodeGivesTheWords : Obligations.EncodeOfDecodeGivesTheWords := by
  intro ws rest i h
  cases ws with
  | nil => cases h
  | cons w ws =>
    obtain ⟨hlen, rfl, rfl⟩ := decodeWords_cons_eq_ok_iff.mp h
    obtain ⟨-, hle⟩ := wordLength_bounds w
    refine ⟨wellFormed_decode _ _ _, ?_⟩
    rw [encode_decode, take_getD_pair (by omega) (by omega), List.cons_append, List.take_append_drop]

/-- An operand's code decodes to it at the front of its own words. -/
theorem decodeOperand_code_append (opd : Operand) (rest : List Word) :
    decodeOperand opd.code ((opd.words ++ rest).getD 0 0) = opd := by
  rw [← getD_words_append, decodeOperand_code]

/-- The word at hand for operand B is the first one after operand A's words. -/
theorem getD_after_words (opd : Operand) (rest : List Word) :
    (if codeTakesWord opd.code then (opd.words ++ rest).getD 1 0 else (opd.words ++ rest).getD 0 0) = rest.getD 0 0 := by
  rw [codeTakesWord_code]
  cases opd <;> rfl

/-- The word of a well-formed instruction, with its extra words after it, decodes to the instruction. -/
theorem decode_firstWord {i : Instr} (h : i.wellFormed = true) {ws rest : List Word}
    (hws : ws = i.operands.flatMap Operand.words ++ rest) : decode i.firstWord (ws.getD 0 0) (ws.getD 1 0) = i := by
  subst hws
  obtain ⟨a, b, hops⟩ | ⟨sel, b, rfl⟩ := operands_pair_or_decodeExt h
  · obtain ⟨mk, hmk, hi⟩ := decodeOp_opcode hops
    rw [firstWord_of_operands hops, decode_basic (mk := mk) (by rwa [opField_packWord]), aField_packWord, bField_packWord,
      hops, List.flatMap_cons, List.flatMap_singleton, List.append_assoc, getD_after_words, decodeOperand_code_append,
      decodeOperand_code_append, ← hi]
  · rw [firstWord_decodeExt, decode_extended (by rw [← opField_toNat, opField_packWord]; rfl), aField_packWord,
      bField_packWord, operands_decodeExt, List.flatMap_singleton, decodeOperand_code_append]

/-- A well-formed instruction's word tells how many words the instruction has (30_encoding.md R95). -/
theorem wordLength_firstWord {i : Instr} (h : i.wellFormed = true) :
    wordLength i.firstWord = 1 + (i.operands.flatMap Operand.words).length := by
  have hdec := decode_firstWord h (rest := []) rfl
  rw [wordLength_eq_operands_length, hdec]

/-- Settles O1: the first word decodes to the instruction, whose length is that of its encoding. -/
theorem decodeOfEncodeGivesTheInstruction : Obligations.DecodeOfEncodeGivesTheInstruction := by
  intro i rest h
  rw [encode, List.cons_append, decodeWords_cons_eq_ok_iff]
  refine ⟨?_, decode_firstWord h rfl, ?_⟩
  · rw [wordLength_firstWord h, List.length_append]
    omega
  · rw [wordLength_firstWord h, Nat.add_sub_cancel_left, List.drop_left]

/-- Settles O7: each encoding, run through the decoder. -/
theorem sampleWordsDecode : Obligations.SampleWordsDecode :=
  ⟨rfl, rfl, rfl, rfl, rfl, rfl, rfl, rfl, rfl, rfl, rfl, rfl⟩

end Sys2Proof.Machine
end

section
/-!
SUPPORT. The statements about the operands (40_operands.md): what each operand code resolves to, what a read and a write
through a resolved operand do, and the resolver's corner cases.
-/

namespace Sys2Proof.Machine

open Sys2Proof.Claims

/-! ### The modes, code by code -/

/-- What a code resolves to, read off the spec's table of codes (40_operands.md R121–R132). -/
theorem resolve_decodeOperand (c : BitVec 6) (s : State) :
    resolve (decodeOperand c (s.cell s.pc)) s = pseudoResolve c.toNat s := (pseudoResolve_toNat c s).symm

/-- Settles O8: one row of the table of codes per clause. -/
theorem registerAndMemoryModesResolve : Obligations.RegisterAndMemoryModesResolve := by
  intro c s
  simp only [resolve_decodeOperand]
  refine ⟨fun h => ?_, fun h₁ h₂ => ?_, fun h₁ h₂ => ?_, fun h => ?_⟩
  · rw [pseudoResolve, if_pos h]
  · rw [pseudoResolve, if_neg (by omega), if_pos h₂]
  · rw [pseudoResolve, if_neg (by omega), if_neg (by omega), if_pos h₂]
    rfl
  · rw [h]
    rfl

/-- Settles O9: codes 0x1F and 0x20–0x3F both resolve to an immediate, whose tag is not assignable. -/
theorem literalModesResolve : Obligations.LiteralModesResolve := by
  intro c s n k
  have hnext : k = 0x1F → resolve (decodeOperand c n) s = (.imm n, s.setPc (s.pc + 1)) := fun h => by
    rw [resolve_decodeOperand, show c.toNat = 0x1F from h]
    rfl
  have hlit : 0x20 ≤ k → resolve (decodeOperand c n) s = (.imm (BitVec.ofNat 16 (k - 0x20)), s) := fun h => by
    rw [resolve_decodeOperand]
    simp (disch := omega) only [pseudoResolve, if_neg, k]
  refine ⟨hnext, hlit, fun h => ?_⟩
  obtain h | h : k = 0x1F ∨ 0x20 ≤ k := by omega
  · rw [hnext h]
    rfl
  · rw [hlit h]
    rfl

/-- Raising a word by one, modulo 2^16. -/
theorem ofNat_succ_mod (v : Word) : BitVec.ofNat 16 ((v.toNat + 1) % 65536) = v + 1 := ofNat_toNat_add_mod v 1

/-- Lowering a word by one, modulo 2^16, is adding 0xFFFF. -/
theorem ofNat_pred_mod (v : Word) : BitVec.ofNat 16 ((v.toNat + 65535) % 65536) = v - 1 := by
  rw [BitVec.sub_eq_add_neg]
  exact ofNat_toNat_add_mod v 0xFFFF

/-- Settles O10: one row of the table of codes per clause, `sp` moving as a word. -/
theorem stackModesResolve : Obligations.StackModesResolve := by
  intro c s
  simp only [resolve_decodeOperand, ofNat_succ_mod, ofNat_pred_mod]
  refine ⟨fun h => ?_, fun h => ?_, fun h => ?_⟩ <;>
  · rw [h]
    rfl

/-- Settles O11: one row of the table of codes per clause. -/
theorem specialRegisterModesResolve : Obligations.SpecialRegisterModesResolve := by
  intro c s
  simp only [resolve_decodeOperand]
  refine ⟨fun h => ?_, fun h => ?_, fun h => ?_⟩ <;>
  · rw [h]
    rfl

/-! ### Reading and writing through a resolved operand -/

/-- Settles O13: `Read` looks its slot up. -/
theorem readReturnsTheCurrentContent : Obligations.ReadReturnsTheCurrentContent :=
  fun _ _ _ _ => ⟨rfl, rfl, rfl, rfl, rfl, rfl⟩

/-- A read after a write sees the word written just when it is through the slot written, and that slot stores. -/
theorem readLoc_writeLoc (loc other : Resolved) (v : Word) (s : State) :
    readLoc other (writeLoc loc v s) = if loc = other ∧ assignable loc then v else readLoc other s := by
  by_cases h : loc = other
  · subst h
    cases loc with
    | imm u => simp [assignable, readLoc]
    | reg r => simp [assignable, readLoc, writeLoc_reg]
    | spec p => cases p <;> simp [assignable, readLoc, writeLoc]
    | mem a => simp [assignable, readLoc, writeLoc_cell]
  · rw [if_neg (fun e => h e.1)]
    cases other with
    | imm u => rfl
    | reg r => rw [readLoc, writeLoc_reg, if_neg h, readLoc]
    | spec p => cases p with
      | pc => rw [readLoc, writeLoc_pc, if_neg h, readLoc]
      | sp => rw [readLoc, writeLoc_sp, if_neg h, readLoc]
      | ov => rw [readLoc, writeLoc_ov, if_neg h, readLoc]
    | mem a => rw [readLoc, writeLoc_cell, if_neg h, readLoc]

/-- The immediates, and nothing else, are not assignable (40_operands.md R137). -/
theorem exists_eq_imm_iff (loc : Resolved) : (∃ u, loc = .imm u) ↔ assignable loc = false := by
  cases loc <;> simp [assignable]

/-- A write through a location that is not assignable is signalled, and is nothing else (40_operands.md R136). -/
theorem writeLoc_of_not_assignable {loc : Resolved} (h : assignable loc = false) (v : Word) (s : State) :
    writeLoc loc v s = s.signalLiteralWrite := by
  obtain ⟨u, rfl⟩ := (exists_eq_imm_iff loc).mpr h
  rfl

/-- Settles O14: the word comes back through the slot written alone, and only an immediate touches an output. -/
theorem writeChangesItsSlotOnly : Obligations.WriteChangesItsSlotOnly := by
  refine fun loc v s => ⟨fun h => ⟨?_, ?_⟩, fun other hne => ?_, exists_eq_imm_iff loc,
    fun h => writeLoc_of_not_assignable h v s⟩
  · rw [readLoc_writeLoc, if_pos ⟨rfl, h⟩]
  · rw [writeLoc_diag, if_pos h]
  · rw [readLoc_writeLoc, if_neg fun e => hne e.1.symm]

/-! ### The corner cases (40_operands.md R138) -/

/-- Writing a cell's own word back changes nothing, where memory is in canonical form. -/
theorem State.setCell_cell_self {s : State} (h : s.Inv) (a : Word) : s.setCell a (s.cell a) = s := by
  rw [State.setCell, State.cell, writeMem_self h]

theorem State.raiseSp_lowerSp (s : State) : s.lowerSp.raiseSp = s := by
  simp [State.raiseSp, State.lowerSp, State.setSp]

theorem State.lowerSp_raiseSp (s : State) : s.raiseSp.lowerSp = s := by
  simp [State.raiseSp, State.lowerSp, State.setSp]

/-- `SET PUSH, POP` pushes and pops the same cell: what it reads there it writes back there. -/
theorem exec_set_push_pop (s : State) :
    exec (.set .push .pop) s = .next (s.setCell (s.sp - 1) (s.cell (s.sp - 1))) := by
  rw [show exec (.set .push .pop) s = .next (s.lowerSp.raiseSp.setCell (s.sp - 1) (s.cell (s.sp - 1))) from rfl,
    State.raiseSp_lowerSp]

/-- `SET POP, PUSH` pops and pushes the same cell: what it reads there it writes back there. -/
theorem exec_set_pop_push (s : State) :
    exec (.set .pop .push) s = .next (s.setCell s.sp (s.cell s.sp)) := by
  rw [show exec (.set .pop .push) s = .next (s.raiseSp.lowerSp.setCell s.sp (s.raiseSp.lowerSp.cell s.raiseSp.lowerSp.sp))
    from rfl, State.lowerSp_raiseSp]

/-- `SET [n + r], v` for an inline literal `v` stores at the wrapped sum. -/
theorem exec_set_indOff_lit (n : Word) (r : Reg) (v : BitVec 5) (s : State) :
    exec (.set (.indOff n r) (.lit v)) s = .next ((s.setPc (s.pc + 1)).setCell (n + s.reg r) (Word.wrap v.toNat)) := rfl

/-- Settles O15: with no net move of `sp`, a cell's own word is written back; every other row runs as it stands. -/
theorem stackOperandCornerCases : Obligations.StackOperandCornerCases := by
  refine fun s => ⟨fun h => ⟨?_, ?_⟩, rfl, rfl, rfl, rfl, fun ha => ?_, rfl⟩
  · rw [exec_set_push_pop, State.setCell_cell_self h]
  · rw [exec_set_pop_push, State.setCell_cell_self h]
  · rw [exec_set_indOff_lit, ha]
    rfl

end Sys2Proof.Machine
end

section
/-!
SUPPORT. The statements about the execution of an instruction (41_execution.md): the step, the write-back and its frame,
`pc` after a step, and the skip.
-/

namespace Sys2Proof.Machine

open Sys2Proof.Claims

/-! ### The two kinds of basic instruction (41_execution.md R153) -/

theorem operands_of_writesBack {i : Instr} {a b : Operand} (h : i.writesBack = some (a, b)) : i.operands = [a, b] := by
  cases i with
  | ife | ifn | ifg | ifb | jsr | unknownExt => cases h
  | _ => cases h; rfl

theorem operands_of_condition {i : Instr} {a b : Operand} {cond : Word → Word → Bool}
    (h : i.condition = some (a, b, cond)) : i.operands = [a, b] := by
  cases i with
  | ife | ifn | ifg | ifb => cases h; rfl
  | _ => cases h

/-- A basic instruction runs the common pattern over the spec's `Compute_op` for its opcode. -/
theorem exec_of_operands {i : Instr} {a b : Operand} (h : i.operands = [a, b]) (s : State) :
    exec i s = .next (execBasic (pseudoComputed i.opcode.toNat) a b s) := by
  obtain ⟨mk, hmk, hi⟩ := decodeOp_opcode h
  have hexec := exec_of_decodeOp hmk a b s
  rwa [← hi] at hexec

/-! ### What `Compute_op` yields: results and overflow values are words already -/

theorem pseudoCompute_res_lt {i : Instr} {a b : Operand} (h : i.writesBack = some (a, b)) (va vb : Word) :
    ∃ n < 65536, (pseudoCompute i.opcode.toNat va.toNat vb.toNat).1 = some n := by
  cases i with
  | set => exact ⟨_, vb.isLt, rfl⟩
  | add | sub | mul | shl => exact ⟨_, Nat.mod_lt _ (by decide), rfl⟩
  | div =>
    simp only [Instr.opcode, BitVec.reduceToNat, pseudoCompute]
    split
    · exact ⟨0, by decide, rfl⟩
    · exact ⟨_, (Nat.div_le_self _ _).trans_lt va.isLt, rfl⟩
  | mod =>
    refine ⟨_, ?_, rfl⟩
    split
    · decide
    · exact (Nat.mod_le _ _).trans_lt va.isLt
  | shr => exact ⟨_, (Nat.div_le_self _ _).trans_lt va.isLt, rfl⟩
  | and => exact ⟨_, (va &&& vb).isLt, rfl⟩
  | bor => exact ⟨_, (va ||| vb).isLt, by rw [BitVec.toNat_or]; rfl⟩
  | xor => exact ⟨_, (va ^^^ vb).isLt, by rw [BitVec.toNat_xor]; rfl⟩
  | ife | ifn | ifg | ifb | jsr | unknownExt => cases h

theorem pseudoCompute_ovNew_lt {i : Instr} (h : i.updatesOv = true) (va vb : Word) :
    ∃ n < 65536, (pseudoCompute i.opcode.toNat va.toNat vb.toNat).2.1 = some n := by
  cases i with
  | add | sub =>
    refine ⟨_, ?_, rfl⟩
    split <;> decide
  | mul => exact ⟨_, Nat.div_lt_of_lt_mul (Nat.mul_lt_mul'' va.isLt vb.isLt), rfl⟩
  | div =>
    simp only [Instr.opcode, BitVec.reduceToNat, pseudoCompute]
    split
    · exact ⟨0, by decide, rfl⟩
    · exact ⟨_, Nat.mod_lt _ (by decide), rfl⟩
  | shl | shr => exact ⟨_, Nat.mod_lt _ (by decide), rfl⟩
  | _ => cases h

theorem pseudoComputed_cond_of_writesBack {i : Instr} {a b : Operand} (h : i.writesBack = some (a, b)) (va vb : Word) :
    (pseudoComputed i.opcode.toNat va vb).cond = none := by
  cases i with
  | div =>
    simp only [Instr.opcode, BitVec.reduceToNat, pseudoComputed_div]
    rfl
  | ife | ifn | ifg | ifb | jsr | unknownExt => cases h
  | _ => rfl

theorem pseudoComputed_of_condition {i : Instr} {a b : Operand} {cond : Word → Word → Bool}
    (h : i.condition = some (a, b, cond)) (va vb : Word) :
    pseudoComputed i.opcode.toNat va vb = { cond := some (cond va vb) } := by
  cases i with
  | ife => cases h; simp [Instr.opcode, pseudoComputed_ife, computeIfe, beq_eq_decide]
  | ifn => cases h; simp [Instr.opcode, pseudoComputed_ifn, computeIfn, bne, beq_eq_decide]
  | ifg => cases h; rfl
  | ifb => cases h; simp [Instr.opcode, pseudoComputed_ifb, computeIfb, bne, beq_eq_decide]
  | _ => cases h

/-! ### Executing a write-back (41_execution.md R154, R157) -/

@[simp] theorem updateOv_pc (c : Computed) (s : State) : (updateOv c s).pc = s.pc := by
  obtain ⟨res, _ | v, cond⟩ := c <;> rfl

@[simp] theorem updateOv_sp (c : Computed) (s : State) : (updateOv c s).sp = s.sp := by
  obtain ⟨res, _ | v, cond⟩ := c <;> rfl

@[simp] theorem updateOv_diag (c : Computed) (s : State) : (updateOv c s).diag = s.diag := by
  obtain ⟨res, _ | v, cond⟩ := c <;> rfl

theorem pseudoComputed_res {op n : Nat} {va vb : Word} (h : (pseudoCompute op va.toNat vb.toNat).1 = some n) :
    (pseudoComputed op va vb).res = some (BitVec.ofNat 16 n) := by
  simp only [pseudoComputed, h, Option.map_some]

theorem pseudoComputed_ovNew {op n : Nat} {va vb : Word} (h : (pseudoCompute op va.toNat vb.toNat).2.1 = some n) :
    (pseudoComputed op va vb).ovNew = some (BitVec.ofNat 16 n) := by
  simp only [pseudoComputed, h, Option.map_some]

/-- The common pattern over its operands' values (41_execution.md R154, R157, R161). -/
theorem execBasic_eq (f : Word → Word → Computed) (a b : Operand) (s : State) :
    execBasic f a b s =
      let c := f (valA a b s) (valB a b s)
      skipIfFalse c (updateOv c (writeBack (locA a b s) c (decoded a b s))) := rfl

/-- An instruction that writes back stores its result through A, then updates `ov`, and is done. -/
theorem exec_of_writesBack {i : Instr} {a b : Operand} (h : i.writesBack = some (a, b)) (s : State) :
    ∃ n < 65536, (pseudoCompute i.opcode.toNat (valA a b s).toNat (valB a b s).toNat).1 = some n ∧
      exec i s = .next (updateOv (pseudoComputed i.opcode.toNat (valA a b s) (valB a b s)) (resultWritten a b s n)) := by
  obtain ⟨n, hlt, hn⟩ := pseudoCompute_res_lt h (valA a b s) (valB a b s)
  refine ⟨n, hlt, hn, ?_⟩
  rw [exec_of_operands (operands_of_writesBack h), execBasic_eq]
  simp only [skipIfFalse_eq, pseudoComputed_cond_of_writesBack h, writeBack, pseudoComputed_res hn, resultWritten,
    reduceCtorEq, if_false]

theorem locA_eq (a b : Operand) (s : State) : locA a b s = (resolve a s).1 := rfl

theorem resultWritten_pc (a b : Operand) (s : State) (n : Nat) :
    (resultWritten a b s n).pc = if a = .pc then BitVec.ofNat 16 n else (decoded a b s).pc := by
  simp only [resultWritten, writeLoc_pc, locA_eq, resolve_eq_pc]

theorem resultWritten_sp (a b : Operand) (s : State) (n : Nat) :
    (resultWritten a b s n).sp = if a = .sp then BitVec.ofNat 16 n else s.sp + a.spChange + b.spChange := by
  simp only [resultWritten, writeLoc_sp, locA_eq, resolve_eq_sp, decoded, resolveBoth_state, resolve_sp]

theorem resultWritten_diag (a b : Operand) (s : State) (n : Nat) :
    (resultWritten a b s n).diag = { s.diag with literalWrite := s.diag.literalWrite || a.isLiteral } := by
  simp only [resultWritten, writeLoc_diag, locA_eq, assignable_resolve, decoded, resolveBoth_state, resolve_diag]
  cases a.isLiteral <;> simp

section
variable {i : Instr} {a b : Operand} {s t : State}

theorem exec_writesBack_pc (h : i.writesBack = some (a, b)) (ha : a ≠ .pc) (he : exec i s = .next t) :
    t.pc = (decoded a b s).pc := by
  obtain ⟨n, -, -, hexec⟩ := exec_of_writesBack h s
  cases he.symm.trans hexec
  rw [updateOv_pc, resultWritten_pc, if_neg ha]

theorem exec_writesBack_pc_of_dest_pc (h : i.writesBack = some (.pc, b)) (he : exec i s = .next t) :
    some t.pc.toNat = (pseudoCompute i.opcode.toNat (valA .pc b s).toNat (valB .pc b s).toNat).1 := by
  obtain ⟨n, hlt, hn, hexec⟩ := exec_of_writesBack h s
  cases he.symm.trans hexec
  rw [hn, updateOv_pc, resultWritten_pc, if_pos rfl, BitVec.toNat_ofNat, Nat.mod_eq_of_lt hlt]

theorem exec_writesBack_sp (h : i.writesBack = some (a, b)) (ha : a ≠ .sp) (he : exec i s = .next t) :
    t.sp = s.sp + a.spChange + b.spChange := by
  obtain ⟨n, -, -, hexec⟩ := exec_of_writesBack h s
  cases he.symm.trans hexec
  rw [updateOv_sp, resultWritten_sp, if_neg ha]

theorem exec_writesBack_diag (h : i.writesBack = some (a, b)) (he : exec i s = .next t) :
    t.diag = { s.diag with literalWrite := s.diag.literalWrite || a.isLiteral } := by
  obtain ⟨n, -, -, hexec⟩ := exec_of_writesBack h s
  cases he.symm.trans hexec
  rw [updateOv_diag, resultWritten_diag]

end

/-- Settles O42: A's slot takes the result, `ov` a new value only in the six that have one, and the decodes move `sp`. -/
theorem writeBackFrame : Obligations.WriteBackFrame := by
  intro i a b s t h he
  have hops := operands_of_writesBack h
  have hbasic : t = execBasic (pseudoComputed i.opcode.toNat) a b s :=
    Host.Outcome.next.inj (he.symm.trans (exec_of_operands hops s))
  refine ⟨fun r ha => ?_, fun ha => exec_writesBack_sp h ha he, fun ha hov => ?_, fun k hk q hq => ?_, fun hk q => ?_,
    exec_writesBack_diag h he⟩
  · rw [hbasic, execBasic_reg, if_neg ha]
  · have hnone : (pseudoComputed i.opcode.toNat (valA a b s) (valB a b s)).ovNew = none :=
      not_ne_iff.mp (mt (updatesOv_of_ovNew hops) (by simp [hov]))
    rw [hbasic, execBasic_ov, hnone, Option.getD_none, if_neg ha]
  · rw [hbasic, execBasic_cell, hk, if_neg (by simpa using hq.symm)]
  · rw [hbasic, execBasic_cell, if_neg (hk q)]

/-- Settles O31: the result goes to `ov` first, and the overflow value overwrites it. -/
theorem overflowValueWinsWhenDestinationIsO : Obligations.OverflowValueWinsWhenDestinationIsO := by
  intro i b s hov h
  obtain ⟨n, -, -, hexec⟩ := exec_of_writesBack h s
  obtain ⟨v, hlt, hv⟩ := pseudoCompute_ovNew_lt hov s.ov (valB .o b s)
  have hva : valA .o b s = s.ov := resolve_ov b s
  have hset : exec i s = .next (((decoded .o b s).setOv (BitVec.ofNat 16 n)).setOv (BitVec.ofNat 16 v)) := by
    rw [hexec, hva, updateOv, pseudoComputed_ovNew hv]
    rfl
  refine ⟨_, hset, resolve_regs b s, resolve_mem b s, resolve_diag b s, rfl, rfl, ?_⟩
  rw [State.setOv_ov, hv, BitVec.toNat_ofNat, Nat.mod_eq_of_lt hlt]

/-! ### Executing a conditional (41_execution.md R161) -/

/-- A conditional goes on if its condition holds, and skips the next instruction if not. -/
theorem exec_of_condition {i : Instr} {a b : Operand} {cond : Word → Word → Bool} (h : i.condition = some (a, b, cond))
    (s : State) :
    exec i s =
      .next (if cond (valA a b s) (valB a b s) then decoded a b s else skipInstruction (decoded a b s)) := by
  rw [exec_of_operands (operands_of_condition h), execBasic_cond (pseudoComputed_of_condition h)]
  rfl

/-! ### Executing the extended form (45_extended.md R250, R251) -/

theorem exec_jsr (b : Operand) (s : State) :
    exec (.jsr b) s =
      .next ((push (resolve b s).2.pc (resolve b s).2).setPc (readLoc (resolve b s).1 (resolve b s).2)) := rfl

theorem exec_unknownExt (sel : BitVec 6) (b : Operand) (s : State) :
    exec (.unknownExt sel b) s = .next (resolve b s).2.signalUnknownExt := rfl

/-! ### The skip (41_execution.md R158–R160) -/

theorem skipInstruction_pc (s : State) :
    (skipInstruction s).pc = s.pc + BitVec.ofNat 16 (lengthOf (s.cell s.pc)) := passOver_operands_pc s

theorem skipInstruction_sp (s : State) :
    (skipInstruction s).sp = s.sp + ((peek s).operands.map Operand.spChange).sum := passOver_sp _ _

theorem spChange_eq_stackEffect_code (opd : Operand) : opd.spChange = stackEffect opd.code.toNat := by
  cases opd with
  | reg r | ind r | indOff _ r => cases r <;> rfl
  | lit v =>
    have h := lit_toNat v
    rw [Operand.code, stackEffect, if_neg (by omega), if_neg (by omega), Operand.spChange]
  | _ => rfl

theorem spChange_decodeOperand (c : BitVec 6) (n : Word) : (decodeOperand c n).spChange = stackEffect c.toNat := by
  rw [spChange_eq_stackEffect_code, code_decodeOperand]

/-- The operands decoded from a word move `sp` by the POP and PUSH codes in the word, A's only in the basic format. -/
theorem spChange_sum_decode (w n₁ n₂ : Word) :
    ((decode w n₁ n₂).operands.map Operand.spChange).sum = skipStackEffect w := by
  rw [skipStackEffect, ← aField_toNat, ← bField_toNat]
  by_cases h : w.toNat % 16 = 0
  · rw [if_neg (not_not_intro h), decode_extended h, operands_decodeExt]
    simp [spChange_decodeOperand]
  · obtain ⟨mk, hmk⟩ := exists_decodeOp_of_ne_zero h
    rw [if_pos h, decode_basic hmk, operands_of_decodeOp hmk]
    simp [spChange_decodeOperand]

/-- Settles O21: the skip resolves the operands decoded from the word at `pc`, and resolving writes nothing. -/
theorem skipAppliesOnlyTheStackSideEffects : Obligations.SkipAppliesOnlyTheStackSideEffects := by
  refine fun s => ⟨?_, skipInstruction_ov s, skipInstruction_regs s, skipInstruction_mem s, skipInstruction_diag s⟩
  rw [skipInstruction_sp, peek, spChange_sum_decode]

/-! ### `pc` past the words of the instruction (41_execution.md R159) -/

theorem decoded_pc_of_peek {s : State} {a b : Operand} (h : (peek s).operands = [a, b]) :
    (decoded a b s.advancePc).pc = s.pc + BitVec.ofNat 16 (lengthOf (s.cell s.pc)) :=
  (operandPcReadsTheNextInstruction s a b h).1

theorem resolve_pc_of_peek {s : State} {b : Operand} (h : (peek s).operands = [b]) :
    (resolve b s.advancePc).2.pc = s.pc + BitVec.ofNat 16 (lengthOf (s.cell s.pc)) := by
  have hpc := passOver_operands_pc s
  rwa [h] at hpc

theorem encode_peek_length (s : State) : (encode (peek s)).length = lengthOf (s.cell s.pc) := by
  rw [encode, List.length_cons, lengthOf_eq_wordLength,
    wordLength_eq_operands_length _ (s.cell (s.pc + 1)) (s.cell (s.pc + 2)), Nat.add_comm]
  rfl

/-- Settles O20: the skip and the execution resolve the same operands, and each resolving passes its operand's words. -/
theorem skipConsumesTheInstructionsWords : Obligations.SkipConsumesTheInstructionsWords := by
  refine fun s => ⟨skipInstruction_pc s, fun a b => decoded_pc_of_peek, fun b => resolve_pc_of_peek, fun a b h ha => ?_,
    fun a b cond h hcond => ?_, encode_peek_length s⟩
  · obtain ⟨t, ht⟩ := exec_completes (peek s) s.advancePc
    exact ⟨t, ht, (exec_writesBack_pc h ha ht).trans (decoded_pc_of_peek (operands_of_writesBack h))⟩
  · refine ⟨_, exec_of_condition h _, ?_⟩
    rw [if_pos hcond, decoded_pc_of_peek (operands_of_condition h)]

/-! ### The diagnostic outputs cleared at the start of a step do not matter -/

theorem resolve_clearDiag (opd : Operand) (s : State) :
    resolve opd s.clearDiag = ((resolve opd s).1, (resolve opd s).2.clearDiag) := by
  cases opd <;> rfl

@[simp] theorem readLoc_clearDiag (loc : Resolved) (s : State) : readLoc loc s.clearDiag = readLoc loc s := by
  cases loc with
  | spec p => cases p <;> rfl
  | _ => rfl

theorem resolveBoth_clearDiag (a b : Operand) (s : State) :
    resolveBoth a b s.clearDiag = ((resolveBoth a b s).1, (resolveBoth a b s).2.1, (decoded a b s).clearDiag) := by
  simp only [resolveBoth, resolve_clearDiag, decoded]

@[simp] theorem decoded_clearDiag (a b : Operand) (s : State) : decoded a b s.clearDiag = (decoded a b s).clearDiag := by
  rw [decoded, resolveBoth_clearDiag]

@[simp] theorem valA_clearDiag (a b : Operand) (s : State) : valA a b s.clearDiag = valA a b s := by
  rw [valA, decoded_clearDiag, readLoc_clearDiag, resolveBoth_clearDiag, valA]

@[simp] theorem valB_clearDiag (a b : Operand) (s : State) : valB a b s.clearDiag = valB a b s := by
  rw [valB, decoded_clearDiag, readLoc_clearDiag, resolveBoth_clearDiag, valB]

/-! ### The step -/

theorem step_eq_exec_peek (s : State) : step s = exec (peek s) s.advancePc.clearDiag := rfl

@[simp] theorem decoded_cell (a b : Operand) (s : State) (k : Word) : (decoded a b s).cell k = s.cell k := by
  rw [decoded, resolveBoth_state, resolve_cell, resolve_cell]

/-- A step at a conditional: it goes on, or skips the instruction after it. -/
theorem step_of_condition {s : State} {a b : Operand} {cond : Word → Word → Bool}
    (h : (peek s).condition = some (a, b, cond)) :
    step s = .next
      (if cond (valA a b s.advancePc) (valB a b s.advancePc) then (decoded a b s.advancePc).clearDiag
        else skipInstruction (decoded a b s.advancePc).clearDiag) := by
  rw [step_eq_exec_peek, exec_of_condition h, valA_clearDiag, valB_clearDiag, decoded_clearDiag]

/-- Settles O18: no instruction stops the machine. -/
theorem everyStepCompletes : Obligations.EveryStepCompletes := step_completes

/-- The words at `pc` of a well-formed instruction are read as that instruction (41_execution.md R151). -/
theorem peek_of_encode {s : State} {i : Instr} (hwf : i.wellFormed = true)
    (h : ∀ k < (encode i).length, s.cell (s.pc + BitVec.ofNat 16 k) = (encode i).getD k 0) : peek s = i := by
  have hlen := wordLength_firstWord hwf
  have hle := (wordLength_bounds i.firstWord).2
  have hdec := fun rest => decode_firstWord hwf (ws := [s.cell (s.pc + 1), s.cell (s.pc + 2)]) (rest := rest)
  have h₀ : s.cell s.pc = i.firstWord := by simpa [encode] using h 0 (Nat.succ_pos _)
  rw [peek, h₀]
  rw [encode] at h
  generalize i.operands.flatMap Operand.words = ws at h hlen hdec
  rcases ws with _ | ⟨n₁, _ | ⟨n₂, _ | ⟨n₃, ws⟩⟩⟩
  · exact hdec _ rfl
  · have h₁ : s.cell (s.pc + 1) = n₁ := h 1 (by simp)
    exact hdec [s.cell (s.pc + 2)] (by rw [h₁]; rfl)
  · have h₁ : s.cell (s.pc + 1) = n₁ := h 1 (by simp)
    have h₂ : s.cell (s.pc + 2) = n₂ := h 2 (by simp)
    exact hdec [] (by rw [h₁, h₂]; rfl)
  · simp only [List.length_cons] at hlen
    omega

/-- Settles O16: the fetch decodes the words at `pc`, which are those of the instruction. -/
theorem stepExecutesTheDecodedInstruction : Obligations.StepExecutesTheDecodedInstruction := by
  intro s i hwf h
  have hpeek := peek_of_encode hwf h
  refine ⟨hpeek, ?_⟩
  rw [step_eq, peek_clearDiag, hpeek]
  rfl

/-- Settles O22: the second conditional is passed over as any instruction is, by its words and its operand codes. -/
theorem skippedConditionalIsNotEvaluated : Obligations.SkippedConditionalIsNotEvaluated := by
  intro s a b a' b' cond cond' h hcond h'
  refine ⟨_, step_of_condition h, ?_, ?_⟩
  · rw [hcond, if_neg nofun, skipInstruction_pc]
    simp only [State.clearDiag_pc, State.clearDiag_cell, decoded_pc_of_peek (operands_of_condition h), decoded_cell,
      State.advancePc_cell]
  · rw [hcond, if_neg nofun, skipInstruction_sp, peek_clearDiag, operands_of_condition h']
    simp [decoded, resolveBoth_state, BitVec.add_assoc]

/-- Settles O19: a write-back elsewhere, a conditional that holds and an unknown extended instruction leave `pc` past the
instruction's words; the others write it, or skip from there. -/
theorem programCounterAfterAStep : Obligations.ProgramCounterAfterAStep := by
  intro s
  obtain ⟨t, ht⟩ := step_completes s
  have hexec := ht
  rw [step_eq_exec_peek] at hexec
  refine ⟨t, ht, fun a b h ha => ?_, fun b h => ?_, fun a b cond h => ?_, fun b h => ?_, fun h => ?_⟩
  · rw [exec_writesBack_pc h ha hexec, decoded_clearDiag, State.clearDiag_pc,
      decoded_pc_of_peek (operands_of_writesBack h)]
  · rw [exec_writesBack_pc_of_dest_pc h hexec, valA_clearDiag, valB_clearDiag]
  · have hpc := decoded_pc_of_peek (operands_of_condition h)
    cases ht.symm.trans (step_of_condition h)
    split
    · exact hpc
    · rw [skipInstruction_pc, State.clearDiag_cell, State.clearDiag_pc, hpc, decoded_cell, State.advancePc_cell]
  · rw [h, exec_jsr, resolve_clearDiag] at hexec
    cases hexec
    rw [State.setPc_pc, readLoc_clearDiag]
  · cases hi : peek s with
    | unknownExt sel b =>
      rw [hi, exec_unknownExt, resolve_clearDiag] at hexec
      cases hexec
      rw [State.signalUnknownExt_pc, State.clearDiag_pc, resolve_pc_of_peek (by rw [hi]; rfl)]
    | _ => rw [hi] at h; cases h

end Sys2Proof.Machine
end

section
/-!
SUPPORT. The statements about SET, the arithmetic opcodes and the shifts (42_set_arith.md): the common pattern where it
writes a result, alone or with a new `ov`, and the shift formulas by the range of the shift amount.
-/

namespace Sys2Proof.Machine

open Sys2Proof.Claims

/-! ### An instruction with two operands: its word, and its execution where it has a result -/

theorem encodedAs_of_operands {i : Instr} {a b : Operand} (h : i.operands = [a, b]) :
    EncodedAs i i.opcode.toNat a b := by
  rw [EncodedAs, firstWord_of_operands h, packWord_toNat]

section
variable {i : Instr} {a b : Operand} {s : State} {n v : Nat}

/-- Where `Compute_op` yields a result alone, it is written through A (41_execution.md R154). -/
theorem exec_of_result (h : i.operands = [a, b])
    (hc : pseudoCompute i.opcode.toNat (valA a b s).toNat (valB a b s).toNat = (some n, none, none)) :
    exec i s = .next (resultWritten a b s n) := by
  rw [exec_of_operands h, execBasic_eq]
  simp only [pseudoComputed, hc]
  rfl

/-- Where `Compute_op` yields a result and a new `ov`, the one is written through A and then the other
(41_execution.md R154, R157). -/
theorem exec_of_result_ov (h : i.operands = [a, b])
    (hc : pseudoCompute i.opcode.toNat (valA a b s).toNat (valB a b s).toNat = (some n, some v, none)) :
    exec i s = .next (resultAndOv a b s n v) := by
  rw [exec_of_operands h, execBasic_eq]
  simp only [pseudoComputed, hc]
  rfl

end

/-! ### SET, ADD, SUB, MUL, DIV, MOD (42_set_arith.md R180–R185) -/

/-- Settles O23: SET's result is B's value. -/
theorem setCopiesBIntoA : Obligations.SetCopiesBIntoA :=
  fun _ _ _ => ⟨exec_of_result rfl rfl, encodedAs_of_operands rfl⟩

/-- Settles O24: the spec's `Compute_ADD` yields the wrapped sum and the carry. -/
theorem addWritesSumAndCarry : Obligations.AddWritesSumAndCarry :=
  fun _ _ _ => ⟨exec_of_result_ov rfl rfl, encodedAs_of_operands rfl⟩

/-- Settles O25: the sum with 2^16 is below 2^16 after a borrow, and loses just that 2^16 without one. -/
theorem subWritesDifferenceAndBorrow : Obligations.SubWritesDifferenceAndBorrow := by
  intro a b s va vb
  have hva : va < 65536 := (valA a b s).isLt
  have hexec : exec (.sub a b) s = .next (resultAndOv a b s ((va + 65536 - vb) % 65536) (if va < vb then 0xFFFF else 0)) :=
    exec_of_result_ov rfl rfl
  refine ⟨hexec.trans ?_, encodedAs_of_operands rfl⟩
  split
  · rw [Nat.mod_eq_of_lt (by omega)]
  · rw [show (va + 65536 - vb) % 65536 = va - vb by omega]

/-- Settles O26: the spec's `Compute_MUL` yields the two halves of the product. -/
theorem mulWritesLowAndHighHalf : Obligations.MulWritesLowAndHighHalf :=
  fun _ _ _ => ⟨exec_of_result_ov rfl rfl, encodedAs_of_operands rfl⟩

/-- Settles O27: the spec's `Compute_DIV` yields zeros for the divisor 0, and else the quotient and its fraction. -/
theorem divWritesQuotientAndFraction : Obligations.DivWritesQuotientAndFraction := by
  intro a b s va vb
  refine ⟨?_, encodedAs_of_operands rfl⟩
  split
  · next hzero => exact exec_of_result_ov rfl (if_pos hzero)
  · next hne => exact exec_of_result_ov rfl (if_neg hne)

/-- Settles O28: the spec's `Compute_MOD` yields the remainder alone. -/
theorem modWritesRemainder : Obligations.ModWritesRemainder :=
  fun _ _ _ => ⟨exec_of_result rfl rfl, encodedAs_of_operands rfl⟩

/-! ### SHL and SHR by the range of the shift amount (42_set_arith.md R186, R187) -/

/-- Doubling at least as often as halving leaves the doublings in excess. -/
theorem mul_two_pow_div_of_ge {m n : Nat} (h : m ≤ n) (v : Nat) : v * 2 ^ n / 2 ^ m = v * 2 ^ (n - m) := by
  rw [Nat.mul_div_assoc v (Nat.pow_dvd_pow 2 h), Nat.pow_div h two_pos]

/-- Doubling at most as often as halving leaves the halvings in excess. -/
theorem mul_two_pow_div_of_le {m n : Nat} (h : n ≤ m) (v : Nat) : v * 2 ^ n / 2 ^ m = v / 2 ^ (m - n) := by
  rw [← Nat.pow_sub_mul_pow 2 h, Nat.mul_div_mul_right v _ (Nat.two_pow_pos n)]

/-- Doubled 16 times or more, a number has nothing left below bit 16. -/
theorem mul_two_pow_mod_of_ge {n : Nat} (h : 16 ≤ n) (v : Nat) : v * 2 ^ n % 65536 = 0 :=
  Nat.mod_eq_zero_of_dvd (Dvd.dvd.mul_left (Nat.pow_dvd_pow 2 h) v)

/-- Halved 16 times or more, a word has nothing left. -/
theorem div_two_pow_of_ge {v n : Nat} (hv : v < 65536) (h : 16 ≤ n) : v / 2 ^ n = 0 :=
  Nat.div_eq_of_lt (hv.trans_le (Nat.pow_le_pow_right two_pos h))

/-- Halving never leaves the words. -/
theorem div_two_pow_mod {v : Nat} (hv : v < 65536) (n : Nat) : v / 2 ^ n % 65536 = v / 2 ^ n :=
  Nat.mod_eq_of_lt ((Nat.div_le_self _ _).trans_lt hv)

/-- Settles O29: the bits moved out are the doublings past the 16th; with 32 of them no bit is left. -/
theorem shlWritesShiftAndBitsOut : Obligations.ShlWritesShiftAndBitsOut := by
  intro a b s va vb
  have hva : va < 65536 := (valA a b s).isLt
  have hexec : exec (.shl a b) s = .next (resultAndOv a b s (va * 2 ^ vb % 65536) (va * 2 ^ vb / 2 ^ 16 % 65536)) :=
    exec_of_result_ov rfl rfl
  refine ⟨hexec.trans ?_, encodedAs_of_operands rfl⟩
  split_ifs with hzero hlow hmid
  · rw [hzero, pow_zero, mul_one, Nat.mod_eq_of_lt hva, div_two_pow_of_ge hva le_rfl]
  · rw [mul_two_pow_div_of_le (by omega), div_two_pow_mod hva]
  · rw [mul_two_pow_mod_of_ge (by omega), mul_two_pow_div_of_ge (by omega)]
  · rw [mul_two_pow_mod_of_ge (by omega), mul_two_pow_div_of_ge (by omega), mul_two_pow_mod_of_ge (by omega)]

/-- Settles O30: the bits moved out are the halvings of A times 2^16; past the 16th of them A itself is gone. -/
theorem shrWritesShiftAndBitsOut : Obligations.ShrWritesShiftAndBitsOut := by
  intro a b s va vb
  have hva : va < 65536 := (valA a b s).isLt
  have hexec : exec (.shr a b) s = .next (resultAndOv a b s (va / 2 ^ vb) (va * 2 ^ 16 / 2 ^ vb % 65536)) :=
    exec_of_result_ov rfl rfl
  refine ⟨hexec.trans ?_, encodedAs_of_operands rfl⟩
  split_ifs with hzero hlow hmid
  · rw [hzero, pow_zero, Nat.div_one, Nat.div_one, mul_two_pow_mod_of_ge le_rfl]
  · rw [mul_two_pow_div_of_ge (by omega)]
  · rw [div_two_pow_of_ge hva (by omega), mul_two_pow_div_of_le (by omega), div_two_pow_mod hva]
  · rw [div_two_pow_of_ge hva (by omega), mul_two_pow_div_of_le (by omega), div_two_pow_of_ge hva (by omega)]

end Sys2Proof.Machine
end

section
/-!
SUPPORT. The statement about the bitwise opcodes (43_bitwise.md): the common pattern where it writes a result alone, and
the bits of that result.
-/

namespace Sys2Proof.Machine

open Sys2Proof.Claims

/-- A write-back instruction without a new `ov` changes `ov` only if it is A (41_execution.md R157). -/
theorem exec_writesBack_keeps_ov {i : Instr} {a b : Operand} (h : i.writesBack = some (a, b)) (hov : i.updatesOv = false)
    (ha : a ≠ .o) (s : State) : ∃ t, exec i s = .next t ∧ t.ov = s.ov := by
  obtain ⟨t, ht⟩ := exec_completes i s
  obtain ⟨-, -, hkeep, -⟩ := writeBackFrame i a b s t h ht
  exact ⟨t, ht, hkeep ha hov⟩

/-! ### AND, BOR and XOR: the spec's results are those of the words (43_bitwise.md R210–R212) -/

theorem exec_and (a b : Operand) (s : State) :
    exec (.and a b) s = .next (resultWritten a b s (valA a b s &&& valB a b s).toNat) :=
  exec_of_result rfl (by rw [BitVec.toNat_and]; rfl)

theorem exec_bor (a b : Operand) (s : State) :
    exec (.bor a b) s = .next (resultWritten a b s (valA a b s ||| valB a b s).toNat) :=
  exec_of_result rfl (by rw [BitVec.toNat_or]; rfl)

theorem exec_xor (a b : Operand) (s : State) :
    exec (.xor a b) s = .next (resultWritten a b s (valA a b s ^^^ valB a b s).toNat) :=
  exec_of_result rfl (by rw [BitVec.toNat_xor]; rfl)

/-- Settles O32: the words written are those of the bitwise operations, whose bits the library gives, and none of the
three opcodes has a new `ov`. -/
theorem bitwiseOpcodesWriteThroughA : Obligations.BitwiseOpcodesWriteThroughA := by
  refine fun a b s => ⟨⟨_, exec_and a b s, fun _ => BitVec.getLsbD_and⟩, ⟨_, exec_bor a b s, fun _ => BitVec.getLsbD_or⟩,
    ⟨_, exec_xor a b s, fun _ => BitVec.getLsbD_xor⟩, fun ha i hi => ?_, encodedAs_of_operands rfl,
    encodedAs_of_operands rfl, encodedAs_of_operands rfl⟩
  simp only [List.mem_cons, List.not_mem_nil, or_false] at hi
  obtain rfl | rfl | rfl := hi <;> exact exec_writesBack_keeps_ov rfl rfl ha s

end Sys2Proof.Machine
end

section
/-!
SUPPORT. The statements about the conditionals (44_conditional.md): a false condition leaves the spec's skip of the next
instruction, the four tests over the values' numbers and bits, and what neither the decodes nor the skip change.
-/

namespace Sys2Proof.Machine

open Sys2Proof.Claims

/-! ### A conditional goes on, or leaves the spec's skip (41_execution.md R158, R161) -/

/-- The skip-decoder does what the spec says over the raw codes of the word at `pc`. -/
theorem skipInstruction_eq_skipped (s : State) : skipInstruction s = skipped s := by
  obtain ⟨hsp, hov, hregs, hmem, hdiag⟩ := skipAppliesOnlyTheStackSideEffects s
  have hpc := skipInstruction_pc s
  generalize skipInstruction s = t at *
  obtain ⟨pc, sp, ov, regs, mem, diag⟩ := t
  subst hpc hsp hov hregs hmem hdiag
  rfl

/-- A conditional goes on where its test, read as `p`, holds, and leaves the spec's skip elsewhere. -/
theorem exec_of_condition_iff {i : Instr} {a b : Operand} {s : State} {cond : Word → Word → Bool} {p : Prop} [Decidable p]
    (h : i.condition = some (a, b, cond)) (hp : cond (valA a b s) (valB a b s) = true ↔ p) :
    exec i s = .next (if p then decoded a b s else skipped (decoded a b s)) := by
  rw [exec_of_condition h, skipInstruction_eq_skipped, if_congr hp rfl rfl]

/-! ### IFE, IFN, IFG, IFB (44_conditional.md R230–R233) -/

/-- Settles O33: words are equal as their numbers are. -/
theorem ifeSkipsUnlessEqual : Obligations.IfeSkipsUnlessEqual :=
  fun _ _ _ => ⟨exec_of_condition_iff rfl (beq_iff_eq.trans BitVec.toNat_inj.symm), encodedAs_of_operands rfl⟩

/-- Settles O34: words differ as their numbers do. -/
theorem ifnSkipsUnlessDifferent : Obligations.IfnSkipsUnlessDifferent := by
  refine fun a b s => ⟨?_, encodedAs_of_operands rfl⟩
  rw [← ite_not]
  exact exec_of_condition_iff rfl (bne_iff_ne.trans BitVec.toNat_ne)

/-- Settles O35: the test is that A's number is not at most B's. -/
theorem ifgSkipsUnlessGreater : Obligations.IfgSkipsUnlessGreater := by
  refine fun a b s => ⟨?_, encodedAs_of_operands rfl⟩
  rw [← ite_not]
  exact exec_of_condition_iff rfl (BitVec.ult_iff_lt.trans (BitVec.lt_def.trans not_le.symm))

/-- Two words have a nonzero bitwise AND just if some bit is set in both. -/
theorem and_bne_zero_iff (va vb : Word) :
    (va &&& vb != 0) = true ↔ ∃ k < 16, va.getLsbD k = true ∧ vb.getLsbD k = true := by
  have hzero : va &&& vb = 0 ↔ ∀ k < 16, (va &&& vb).getLsbD k = (0 : Word).getLsbD k :=
    ⟨fun h _ _ => by rw [h], BitVec.eq_of_getLsbD_eq⟩
  rw [bne_iff_ne, ne_eq, hzero]
  simp

/-- Settles O36: the AND of the two values has a set bit just where both have one. -/
theorem ifbSkipsUnlessCommonBit : Obligations.IfbSkipsUnlessCommonBit := by
  intro a b s
  have hexec := exec_of_condition_iff (i := .ifb a b) rfl (and_bne_zero_iff (valA a b s) (valB a b s))
  refine ⟨fun hbit => ?_, fun hno => ?_, encodedAs_of_operands rfl⟩
  · rw [hexec, if_pos hbit]
  · rw [hexec, if_neg fun ⟨k, hk, hbit⟩ => hno k hk hbit]

/-! ### What the four share (44_conditional.md R234) -/

@[simp] theorem decoded_sp (a b : Operand) (s : State) : (decoded a b s).sp = s.sp + a.spChange + b.spChange := by
  rw [decoded, resolveBoth_state, resolve_sp, resolve_sp]

@[simp] theorem decoded_ov (a b : Operand) (s : State) : (decoded a b s).ov = s.ov := by
  rw [decoded, resolveBoth_state, resolve_ov, resolve_ov]

@[simp] theorem decoded_reg (a b : Operand) (s : State) (r : Reg) : (decoded a b s).reg r = s.reg r := by
  rw [decoded, resolveBoth_state, resolve_reg, resolve_reg]

@[simp] theorem decoded_diag (a b : Operand) (s : State) : (decoded a b s).diag = s.diag := by
  rw [decoded, resolveBoth_state, resolve_diag, resolve_diag]

/-- Settles O37: the decodes move `pc` and `sp` only, and so does the skip after them. -/
theorem conditionalsWriteNothing : Obligations.ConditionalsWriteNothing := by
  intro i a b cond s h
  have hexec := exec_of_condition_iff h (s := s) Iff.rfl
  cases hcond : cond (valA a b s) (valB a b s) with
  | true =>
    rw [if_pos hcond] at hexec
    exact ⟨_, hexec, decoded_reg a b s, decoded_ov a b s, decoded_cell a b s, decoded_diag a b s, rfl,
      fun _ => ⟨rfl, decoded_sp a b s⟩, nofun⟩
  | false =>
    rw [if_neg (ne_true_of_eq_false hcond)] at hexec
    exact ⟨_, hexec, decoded_reg a b s, decoded_ov a b s, decoded_cell a b s, decoded_diag a b s, rfl, nofun,
      fun _ => ⟨rfl, rfl⟩⟩

end Sys2Proof.Machine
end

section
/-!
SUPPORT. The statements about the extended form (45_extended.md): JSR's push and jump field by field, the return from it,
and an unknown selector.
-/

namespace Sys2Proof.Machine

open Sys2Proof.Claims

/-! ### JSR (45_extended.md R250) -/

/-- The instruction word of JSR: selector 0x01 and opcode 0 below the operand's code (30_encoding.md R91, R98). -/
theorem firstWord_jsr_toNat (b : Operand) : (Instr.jsr b).firstWord.toNat = b.code.toNat * 1024 + 16 := by
  rw [Instr.firstWord, packWord_toNat]
  simp [jsrSelector, Instr.opcode]

/-- Settles O38: the push lowers `sp` and stores there, and the operand is read in the state before it. -/
theorem jsrPushesReturnAddressAndJumps : Obligations.JsrPushesReturnAddressAndJumps :=
  fun b s => ⟨exec_jsr b s, resolve_pc b s, firstWord_jsr_toNat b⟩

section
variable {b : Operand} {s t : State}

theorem eq_of_exec_jsr (h : exec (.jsr b) s = .next t) :
    t = (push (resolve b s).2.pc (resolve b s).2).setPc (readLoc (resolve b s).1 (resolve b s).2) :=
  Host.Outcome.next.inj (h.symm.trans (exec_jsr b s))

theorem exec_jsr_sp (h : exec (.jsr b) s = .next t) : t.sp = s.sp + b.spChange - 1 := by
  rw [eq_of_exec_jsr h]
  simp [push]

/-- JSR changes one cell: the one below the stack pointer its operand's decode leaves takes the address of the next
instruction. -/
theorem exec_jsr_cell (h : exec (.jsr b) s = .next t) (q : Word) :
    t.cell q = if q = (resolve b s).2.sp - 1 then s.pc + BitVec.ofNat 16 b.words.length else s.cell q := by
  rw [eq_of_exec_jsr h]
  simp [push]

/-- JSR leaves the address of the next instruction on the top of the stack. -/
theorem exec_jsr_cell_sp (h : exec (.jsr b) s = .next t) : t.cell t.sp = s.pc + BitVec.ofNat 16 b.words.length := by
  rw [exec_jsr_cell h, exec_jsr_sp h, resolve_sp, if_pos rfl]

end

/-- Settles O39: the decode moves `pc` and `sp` only, the push writes `sp` and one cell, and the jump writes `pc`. -/
theorem jsrFrame : Obligations.JsrFrame := by
  intro b s t h
  have hsp := exec_jsr_sp h
  have hcell := exec_jsr_cell h
  obtain rfl := eq_of_exec_jsr h
  exact ⟨resolve_reg b s, resolve_ov b s, resolve_diag b s, hsp, fun q hq => (hcell q).trans (if_neg hq)⟩

/-! ### The return (45_extended.md R252) -/

/-- `SET PC, POP` goes to the word on the top of the stack and takes it off. -/
theorem exec_set_pc_pop (s : State) : exec (.set .pc .pop) s = .next (s.raiseSp.setPc (s.cell s.sp)) := rfl

/-- Settles O41: the return pops the word JSR pushed, which is the address past the JSR's own words, and raises `sp` by
the one the push lowered it. -/
theorem returnComesBackAfterTheJsr : Obligations.ReturnComesBackAfterTheJsr := by
  intro s t u b hjsr hstep hret husp hucell
  have hexec := exec_peek_of_step hstep
  rw [hjsr] at hexec
  have hnext := resolve_pc_of_peek (s := s) (b := b) (by rw [hjsr]; rfl)
  refine ⟨_, by rw [step_eq_exec_peek, hret, exec_set_pc_pop], ?_, ?_⟩
  · calc u.cell u.sp
      _ = t.cell t.sp := by rw [husp, hucell]
      _ = (resolve b s.advancePc).2.pc := by rw [exec_jsr_cell_sp hexec, resolve_pc]; rfl
      _ = s.pc + BitVec.ofNat 16 (lengthOf (s.cell s.pc)) := hnext
  · calc u.sp + 1
      _ = s.sp + b.spChange - 1 + 1 := by rw [husp, exec_jsr_sp hexec]; rfl
      _ = s.sp + b.spChange := BitVec.sub_add_cancel _ _

/-! ### Unknown selectors (45_extended.md R251) -/

/-- Settles O40: what is left is the operand's decode and the signal; only `fault` stops. -/
theorem unknownExtendedOnlyDecodesItsOperand : Obligations.UnknownExtendedOnlyDecodesItsOperand :=
  fun sel b s => ⟨⟨_, exec_unknownExt sel b s, rfl, resolve_pc b s, resolve_sp b s, resolve_ov b s, resolve_regs b s,
    resolve_mem b s, rfl, by rw [State.signalUnknownExt_diag, resolve_diag]⟩, rfl⟩

end Sys2Proof.Machine
end

section
/-!
SUPPORT. The statement about the diagnostic outputs (60_exceptions.md R271): what an execution adds to each of them, and
what that makes them after a step, which starts with both clear.
-/

namespace Sys2Proof

/-- The instruction writes its result back through a literal, which suppresses the write (40_operands.md R136). -/
def Instr.writesLiteral (i : Instr) : Bool := i.writesBack.any fun (a, _) => a.isLiteral

theorem Instr.writesLiteral_iff {i : Instr} :
    i.writesLiteral = true ↔ ∃ a b, i.writesBack = some (a, b) ∧ a.isLiteral = true := by
  rw [writesLiteral, Option.any_eq_true, Prod.exists]

theorem Instr.writesLiteral_of_isUnknownExt {i : Instr} (h : i.isUnknownExt = true) : i.writesLiteral = false := by
  cases i with
  | unknownExt => rfl
  | _ => cases h

namespace Machine

open Sys2Proof.Claims

section
variable {i : Instr} {s t : State}

theorem exec_condition_diag {a b : Operand} {cond : Word → Word → Bool} (h : i.condition = some (a, b, cond))
    (he : exec i s = .next t) : t.diag = s.diag := by
  cases he.symm.trans (exec_of_condition h s)
  split
  · exact decoded_diag a b s
  · rw [skipInstruction_diag, decoded_diag]

/-- An execution sets `diag_literal_write` at a write-back through a literal and `diag_unknown_ext` at an unknown extended
instruction, and clears neither. -/
theorem exec_diag (he : exec i s = .next t) :
    t.diag = ⟨s.diag.literalWrite || i.writesLiteral, s.diag.unknownExt || i.isUnknownExt⟩ := by
  have unchanged (hd : t.diag = s.diag) (hlit : i.writesLiteral = false) (hext : i.isUnknownExt = false) :
      t.diag = ⟨s.diag.literalWrite || i.writesLiteral, s.diag.unknownExt || i.isUnknownExt⟩ := by
    rw [hd, hlit, hext, Bool.or_false, Bool.or_false]
  cases i with
  | ife | ifn | ifg | ifb => exact unchanged (exec_condition_diag rfl he) rfl rfl
  | jsr b =>
    obtain ⟨-, -, hdiag, -⟩ := jsrFrame b s t he
    exact unchanged hdiag rfl rfl
  | unknownExt sel b =>
    cases he.symm.trans (exec_unknownExt sel b s)
    simp [Instr.writesLiteral, Instr.writesBack, Instr.isUnknownExt]
  | _ =>
    rw [exec_writesBack_diag rfl he]
    simp [Instr.writesLiteral, Instr.writesBack, Instr.isUnknownExt]

/-- A step starts with both outputs clear, so they tell of its own instruction alone (41_execution.md R150). -/
theorem step_diag (h : step s = .next t) : t.diag = ⟨(peek s).writesLiteral, (peek s).isUnknownExt⟩ :=
  exec_diag (exec_peek_of_step h)

end

/-- Settles O51: each output is the test of the instruction at `pc`, and an unknown extended one writes nothing back. -/
theorem diagnosticOutputsOfAStep : Obligations.DiagnosticOutputsOfAStep := by
  intro s t h
  rw [step_diag h]
  refine ⟨Instr.writesLiteral_iff, Iff.rfl, fun ⟨hlit, hext⟩ => ?_⟩
  exact Bool.false_ne_true ((Instr.writesLiteral_of_isUnknownExt hext).symm.trans hlit)

end Machine

end Sys2Proof
end

section
/-!
SUPPORT. The statements about reset and runs (70_reset_and_hazards.md): the image `reset` refuses (R304), and where a run
ends under each policy (R311). A run is followed by its last step, as R311 says it, where `Host.Core.run` goes by the first.
-/

namespace Sys2Proof.Machine

/-! ### The images `reset` takes (R304) -/

theorem resetImage_of_oversized {image : List Word} (h : 65536 < image.length) : resetImage image = none :=
  if_neg (Nat.not_le_of_lt h)

theorem resetImage_nil : resetImage [] = some State.reset :=
  resetImage_eq_some_iff.mpr ⟨Nat.zero_le _, rfl⟩

/-- Settles O47: reset creates a state only for an image that fits, and the empty one leaves memory without entries. -/
theorem oversizedImageIsRefused : Obligations.OversizedImageIsRefused :=
  ⟨fun _ => resetImage_of_oversized, resetImage_nil, readMem_nil⟩

/-! ### A run by its last step (R311) -/

/-- One step more after an outcome: from a next state its step, and nothing after a stop. -/
def stepAfter (M : Host.Core) : Host.Outcome M.State M.Fault M.Refusal → Host.Outcome M.State M.Fault M.Refusal
  | .next t => M.step t
  | .fault r => .fault r
  | .refused r => .refused r

theorem core_run_succ (M : Host.Core) (n : Nat) (s : M.State) : M.run (n + 1) s = stepAfter M (M.run n s) := by
  induction n generalizing s with
  | zero => cases h : M.step s <;> simp [Host.Core.run, stepAfter, h]
  | succ n ih =>
    cases h : M.step s with
    | next u => rw [core_run_next h, core_run_next h, ih]
    | fault r => rw [core_run_fault h, core_run_fault h, stepAfter]
    | refused r => simp [Host.Core.run, stepAfter, h]

section
variable {policy : Config.UnknownExtPolicy} {n : Nat} {s t : State}

theorem runUnder_succ_of_next (h : runUnder policy n s = .next t) : runUnder policy (n + 1) s = stepUnder policy t :=
  (core_run_succ (coreUnder policy) n s).trans (congrArg (stepAfter (coreUnder policy)) h)

theorem runUnder_succ_of_fault {r : Fault} (h : runUnder policy n s = .fault r) : runUnder policy (n + 1) s = .fault r :=
  (core_run_succ (coreUnder policy) n s).trans (congrArg (stepAfter (coreUnder policy)) h)

theorem observe_of_resetImage {image : List Word} (h : resetImage image = some s) :
    observe policy image n = some (runUnder policy n s) := by
  rw [observe, h, Option.map_some]

end

/-! ### Where a run ends -/

theorem runUnder_nop_completes (n : Nat) (s : State) : ∃ t, runUnder .nop n s = .next t := by
  induction n with
  | zero => exact ⟨s, rfl⟩
  | succ n ih =>
    obtain ⟨t, ht⟩ := ih
    obtain ⟨u, hu⟩ := step_completes t
    exact ⟨u, (runUnder_succ_of_next ht).trans ((stepUnder_config t).trans hu)⟩

/-- One of the first `n` steps of the run under `nop` is at an unknown extended instruction. -/
def MeetsUnknownExt (n : Nat) (s : State) : Prop :=
  ∃ k < n, ∃ t, runUnder .nop k s = .next t ∧ (peek t).isUnknownExt = true

theorem not_meetsUnknownExt_iff {n : Nat} {s : State} :
    ¬ MeetsUnknownExt n s ↔ ∀ k < n, ∀ t, runUnder .nop k s = .next t → (peek t).isUnknownExt = false := by
  simp [MeetsUnknownExt]

/-- What the last of `n + 1` steps adds: the state it starts from. -/
theorem meetsUnknownExt_succ_iff {n : Nat} {s t : State} (h : runUnder .nop n s = .next t) :
    MeetsUnknownExt (n + 1) s ↔ MeetsUnknownExt n s ∨ (peek t).isUnknownExt = true := by
  simp only [MeetsUnknownExt, Nat.exists_lt_succ_right, h, Host.Outcome.next.injEq, exists_eq_left']

/-- While it meets no unknown extended instruction a run under `fault` is the run under `nop`. -/
theorem runUnder_fault_of_not_meets {n : Nat} {s : State} (h : ¬ MeetsUnknownExt n s) :
    runUnder .fault n s = runUnder .nop n s := by
  induction n with
  | zero => rfl
  | succ n ih =>
    obtain ⟨t, ht⟩ := runUnder_nop_completes n s
    rw [meetsUnknownExt_succ_iff ht, not_or, Bool.not_eq_true] at h
    obtain ⟨hbefore, hknown⟩ := h
    calc runUnder .fault (n + 1) s
      _ = stepUnder .fault t := runUnder_succ_of_next ((ih hbefore).trans ht)
      _ = step t := stepUnder_of_known hknown .fault
      _ = stepUnder .nop t := (stepUnder_of_known hknown .nop).symm
      _ = runUnder .nop (n + 1) s := (runUnder_succ_of_next ht).symm

/-- A run under `fault` is stuck once it has met an unknown extended instruction. -/
theorem runUnder_fault_of_meets {n : Nat} {s : State} (h : MeetsUnknownExt n s) :
    runUnder .fault n s = .fault .stuckUnknownExt := by
  induction n with
  | zero =>
    obtain ⟨k, hk, -⟩ := h
    exact absurd hk (Nat.not_lt_zero k)
  | succ n ih =>
    by_cases hbefore : MeetsUnknownExt n s
    · exact runUnder_succ_of_fault (ih hbefore)
    · obtain ⟨t, ht⟩ := runUnder_nop_completes n s
      have hext := ((meetsUnknownExt_succ_iff ht).mp h).resolve_left hbefore
      rw [runUnder_succ_of_next ((runUnder_fault_of_not_meets hbefore).trans ht), stepUnder_fault, if_pos hext]

/-- `fault` stops a run exactly where the run under `nop`, which never stops, has met an unknown extended instruction. -/
theorem runUnder_fault_eq_stuck_iff {n : Nat} {s : State} :
    runUnder .fault n s = .fault .stuckUnknownExt ↔ MeetsUnknownExt n s := by
  refine ⟨fun h => ?_, runUnder_fault_of_meets⟩
  by_contra hnot
  obtain ⟨t, ht⟩ := runUnder_nop_completes n s
  cases h.symm.trans ((runUnder_fault_of_not_meets hnot).trans ht)

/-- Settles O54: a run goes on by the step of its last state, which `nop` always answers and `fault` stops only at an
unknown extended instruction. -/
theorem runEndsOnlyAtAnUnknownWordUnderFault : Obligations.RunEndsOnlyAtAnUnknownWordUnderFault :=
  ⟨fun _ _ _ _ h => ⟨observe_of_resetImage h, observe_of_resetImage h⟩,
    fun n s => ⟨fun _ _ => runUnder_succ_of_next, runUnder_nop_completes n s, runUnder_fault_eq_stuck_iff,
      fun h => runUnder_fault_of_not_meets (not_meetsUnknownExt_iff.mpr h)⟩⟩

end Sys2Proof.Machine
end
